-- ==== Sys2Proof/Word.lean ====
section
/-! DEFINITION. The two word types of spec/00_scope.md R12: u8 and u16. -/

namespace Sys2Proof

/-- `u8`: an 8-bit value (R12). -/
abbrev Byte := BitVec 8

/-- `u16`: a 16-bit value, and an address of the one address space (R12, R47). -/
abbrev Word := BitVec 16

end Sys2Proof
end

