-- ==== Sys2Proof/Config.lean ====
section
/-! DEFINITION. The parameters of spec/00_scope.md R11 that the spec leaves OPEN (opaque: no proof can see a value), and
`ResetIME`, whose default spec/92_eei_decisions.md D23 gives. The parameters with a decided default over addresses
(BankSelect, PeriphSet, EnvWritable) are in Sys2Proof/Machine/Params.lean; `RomImage` is held in State. -/

namespace Sys2Proof

/-- The two dispatch tables (30_encoding.md R88). The codes of 60_exceptions.md R130 are 0 and 1 in this order. -/
inductive Table where
  | primary
  | secondary
  deriving DecidableEq, Repr, Inhabited

/-- `SystemVariant` (70_reset_and_hazards.md R164). -/
inductive SystemVariant where
  | dmg
  | sgb
  | cgb
  | mgb
  deriving DecidableEq, Repr, Inhabited

/-- `SystemVariant`, OPEN (R11, D34): assumption log 3. -/
opaque Config.systemVariant : SystemVariant

/-- `BaseCost(table, opcode)`, OPEN (R11, R106, D24): assumption log 2. -/
opaque Config.baseCost : Table → Byte → Nat

/-- `PeriphRead`, a draw (R11, R50, D12): the byte that the `n`-th read of a registered non-joypad peripheral returns at
an address. Any value (assumption log 6). -/
opaque Config.periphRead : Nat → Word → Byte

/-- `ResetIME`, decided default false (R11, D23). DESIGN CHOICE (the spec's own), unsafe: assumption log 4. -/
def Config.resetIME : Bool := false

end Sys2Proof
end

