-- ==== Sys2Proof/Machine/Bits.lean ====
section
/-! DEFINITION. Bytes of a word, words of bytes, and sign extension (spec/00_scope.md R12). -/

namespace Sys2Proof.Machine

/-- `w[15:8]`. -/
def hiByte (w : Word) : Byte := w.extractLsb' 8 8

/-- `w[7:0]`. -/
def loByte (w : Word) : Byte := w.extractLsb' 0 8

/-- `hi:lo`, with `hi` in bits 15..8. -/
def mkWord (hi lo : Byte) : Word := hi ++ lo

/-- `sext_8(v)` as a u16, the two's-complement value modulo 65536. -/
def sext8 (v : Byte) : Word := v.signExtend 16

end Sys2Proof.Machine
end

