-- ==== Sys2Proof/Syntax.lean ====
section
/-! DEFINITION. The instructions: one constructor per mnemonic of spec/opcode_table.json (30_encoding.md R91, R96). The 186
rows `(undefined)` are one constructor that holds the unbound byte (assumption log 26). -/

namespace Sys2Proof

/-- The 8-bit views of the register file (10_state.md R21). -/
inductive Reg8 where
  | a | f | b | c | d | e | h | l
  deriving DecidableEq, Repr

/-- An instruction as fetched, its operand bytes read (R83, R86). -/
inductive Instr where
  /-- NOP (R112) -/
  | nop
  /-- JR e (R113): `e` is the displacement byte, signed when used -/
  | jr (e : Byte)
  /-- JR NZ,e (R114) -/
  | jrNz (e : Byte)
  /-- JR Z,e (R115) -/
  | jrZ (e : Byte)
  /-- LD A,n (R119) -/
  | ldAN (n : Byte)
  -- LD r,r' (R120): the destination is the first letter after `ld`, the source the second
  | ldBB | ldBC | ldBD | ldBE | ldBH | ldBL | ldBA
  | ldCB | ldCC | ldCD | ldCE | ldCH | ldCL | ldCA
  | ldDB | ldDC | ldDD | ldDE | ldDH | ldDL | ldDA
  | ldEB | ldEC | ldED | ldEE | ldEH | ldEL | ldEA
  | ldHB | ldHC | ldHD | ldHE | ldHH | ldHL | ldHA
  | ldLB | ldLC | ldLD | ldLE | ldLH | ldLL | ldLA
  | ldAB | ldAC | ldAD | ldAE | ldAH | ldAL | ldAA
  -- XOR r (R124) and XOR A (R125)
  | xorB | xorC | xorD | xorE | xorH | xorL | xorA
  /-- JP nn (R116) -/
  | jp (nn : Word)
  /-- CALL nn (R117) -/
  | call (nn : Word)
  /-- LDH (n),A (R121) -/
  | ldhNA (n : Byte)
  /-- LD (nn),A (R123) -/
  | ldNnA (nn : Word)
  /-- LDH A,(n) (R122) -/
  | ldhAN (n : Byte)
  /-- DI (R128) -/
  | di
  /-- EI (R129) -/
  | ei
  /-- CP n (R126) -/
  | cp (n : Byte)
  /-- PREFIX CB with the byte that keys the secondary table (R89, R103) -/
  | prefixCb (op2 : Byte)
  /-- a primary byte with no bound handler (R93, R104) -/
  | undefinedOpcode (op : Byte)
  deriving DecidableEq, Repr

/-- The operands of an LD r,r' as (destination, source), for the 49 forms of R120; none for every other instruction. -/
def Instr.loadRegs : Instr → Option (Reg8 × Reg8)
  | .ldBB => some (.b, .b)
  | .ldBC => some (.b, .c)
  | .ldBD => some (.b, .d)
  | .ldBE => some (.b, .e)
  | .ldBH => some (.b, .h)
  | .ldBL => some (.b, .l)
  | .ldBA => some (.b, .a)
  | .ldCB => some (.c, .b)
  | .ldCC => some (.c, .c)
  | .ldCD => some (.c, .d)
  | .ldCE => some (.c, .e)
  | .ldCH => some (.c, .h)
  | .ldCL => some (.c, .l)
  | .ldCA => some (.c, .a)
  | .ldDB => some (.d, .b)
  | .ldDC => some (.d, .c)
  | .ldDD => some (.d, .d)
  | .ldDE => some (.d, .e)
  | .ldDH => some (.d, .h)
  | .ldDL => some (.d, .l)
  | .ldDA => some (.d, .a)
  | .ldEB => some (.e, .b)
  | .ldEC => some (.e, .c)
  | .ldED => some (.e, .d)
  | .ldEE => some (.e, .e)
  | .ldEH => some (.e, .h)
  | .ldEL => some (.e, .l)
  | .ldEA => some (.e, .a)
  | .ldHB => some (.h, .b)
  | .ldHC => some (.h, .c)
  | .ldHD => some (.h, .d)
  | .ldHE => some (.h, .e)
  | .ldHH => some (.h, .h)
  | .ldHL => some (.h, .l)
  | .ldHA => some (.h, .a)
  | .ldLB => some (.l, .b)
  | .ldLC => some (.l, .c)
  | .ldLD => some (.l, .d)
  | .ldLE => some (.l, .e)
  | .ldLH => some (.l, .h)
  | .ldLL => some (.l, .l)
  | .ldLA => some (.l, .a)
  | .ldAB => some (.a, .b)
  | .ldAC => some (.a, .c)
  | .ldAD => some (.a, .d)
  | .ldAE => some (.a, .e)
  | .ldAH => some (.a, .h)
  | .ldAL => some (.a, .l)
  | .ldAA => some (.a, .a)
  | .nop | .jr _ | .jrNz _ | .jrZ _ | .ldAN _ | .jp _ | .call _ | .ldhNA _ | .ldNnA _ | .ldhAN _ | .di | .ei | .cp _ => none
  | .xorB | .xorC | .xorD | .xorE | .xorH | .xorL | .xorA | .prefixCb _ | .undefinedOpcode _ => none

/-- The operand of an XOR r (R124) or of XOR A (R125); none for every other instruction. -/
def Instr.xorReg : Instr → Option Reg8
  | .xorB => some .b
  | .xorC => some .c
  | .xorD => some .d
  | .xorE => some .e
  | .xorH => some .h
  | .xorL => some .l
  | .xorA => some .a
  | .nop | .jr _ | .jrNz _ | .jrZ _ | .ldAN _ | .jp _ | .call _ | .ldhNA _ | .ldNnA _ | .ldhAN _ | .di | .ei | .cp _ => none
  | .prefixCb _ | .undefinedOpcode _ => none
  | .ldBB | .ldBC | .ldBD | .ldBE | .ldBH | .ldBL | .ldBA => none
  | .ldCB | .ldCC | .ldCD | .ldCE | .ldCH | .ldCL | .ldCA => none
  | .ldDB | .ldDC | .ldDD | .ldDE | .ldDH | .ldDL | .ldDA => none
  | .ldEB | .ldEC | .ldED | .ldEE | .ldEH | .ldEL | .ldEA => none
  | .ldHB | .ldHC | .ldHD | .ldHE | .ldHH | .ldHL | .ldHA => none
  | .ldLB | .ldLC | .ldLD | .ldLE | .ldLH | .ldLL | .ldLA => none
  | .ldAB | .ldAC | .ldAD | .ldAE | .ldAH | .ldAL | .ldAA => none

end Sys2Proof
end

