-- ==== Sys2Proof/WellFormed.lean ====
section
/-! DEFINITION. Which terms of `Instr` are instructions: an operand byte or word may hold any value (R86), and an undefined
opcode is a byte the primary table binds nothing to and that is not the prefix (30_encoding.md R91). -/

namespace Sys2Proof

/-- The bytes of R91, by its fields (R85, R87): the fixed bytes and the prefix, `01dddsss` and `10101sss` with no field 110. -/
def boundByte (op : Byte) : Bool :=
  [0x00, 0x18, 0x20, 0x28, 0x3E, 0xC3, 0xCD, 0xE0, 0xEA, 0xF0, 0xF3, 0xFB, 0xFE, 0xCB].contains op
    || (op.extractLsb' 6 2 == 0b01 && op.extractLsb' 3 3 != 0b110 && op.extractLsb' 0 3 != 0b110)
    || (op.extractLsb' 3 5 == 0b10101 && op.extractLsb' 0 3 != 0b110)

/-- The one check: `undefinedOpcode` holds an unbound byte. -/
def Instr.wellFormed : Instr → Bool
  | .undefinedOpcode op => !boundByte op
  | _ => true

/-- An instruction that an encoding of the spec can give. -/
abbrev WellFormed (i : Instr) : Prop := i.wellFormed = true

end Sys2Proof
end

