-- ==== Sys2Proof/Decode.lean ====
section
/-! DEFINITION. Decoding (30_encoding.md R83 to R95): the primary table as rows, the decoder of a byte list, the encoder, and
the opcode table's numbering of an instruction's bits. -/

namespace Sys2Proof

/-- What a table entry still reads after its opcode byte (R83: formats `op`, `op_n` and `op_e`, `op_nn`). -/
inductive Form where
  | op (i : Instr)
  | opN (build : Byte → Instr)
  | opNN (build : Word → Instr)

/-- One bound row of a dispatch table: the opcode byte and the entry (R88). -/
abbrev Row := Byte × Form

/-- NOP, relative jumps, LD A,n (R91). -/
def rowsPlain : List Row :=
  [(0x00, .op .nop), (0x18, .opN .jr), (0x20, .opN .jrNz), (0x28, .opN .jrZ), (0x3E, .opN .ldAN)]

/-- LD B,r' (R91, R120). -/
def rowsLdB : List Row :=
  [(0x40, .op .ldBB), (0x41, .op .ldBC), (0x42, .op .ldBD), (0x43, .op .ldBE), (0x44, .op .ldBH), (0x45, .op .ldBL), (0x47, .op .ldBA)]

/-- LD C,r' (R91, R120). -/
def rowsLdC : List Row :=
  [(0x48, .op .ldCB), (0x49, .op .ldCC), (0x4A, .op .ldCD), (0x4B, .op .ldCE), (0x4C, .op .ldCH), (0x4D, .op .ldCL), (0x4F, .op .ldCA)]

/-- LD D,r' (R91, R120). -/
def rowsLdD : List Row :=
  [(0x50, .op .ldDB), (0x51, .op .ldDC), (0x52, .op .ldDD), (0x53, .op .ldDE), (0x54, .op .ldDH), (0x55, .op .ldDL), (0x57, .op .ldDA)]

/-- LD E,r' (R91, R120). -/
def rowsLdE : List Row :=
  [(0x58, .op .ldEB), (0x59, .op .ldEC), (0x5A, .op .ldED), (0x5B, .op .ldEE), (0x5C, .op .ldEH), (0x5D, .op .ldEL), (0x5F, .op .ldEA)]

/-- LD H,r' (R91, R120). -/
def rowsLdH : List Row :=
  [(0x60, .op .ldHB), (0x61, .op .ldHC), (0x62, .op .ldHD), (0x63, .op .ldHE), (0x64, .op .ldHH), (0x65, .op .ldHL), (0x67, .op .ldHA)]

/-- LD L,r' (R91, R120). -/
def rowsLdL : List Row :=
  [(0x68, .op .ldLB), (0x69, .op .ldLC), (0x6A, .op .ldLD), (0x6B, .op .ldLE), (0x6C, .op .ldLH), (0x6D, .op .ldLL), (0x6F, .op .ldLA)]

/-- LD A,r' (R91, R120). -/
def rowsLdA : List Row :=
  [(0x78, .op .ldAB), (0x79, .op .ldAC), (0x7A, .op .ldAD), (0x7B, .op .ldAE), (0x7C, .op .ldAH), (0x7D, .op .ldAL), (0x7F, .op .ldAA)]

/-- XOR r and XOR A (R91, R124, R125). -/
def rowsXor : List Row :=
  [(0xA8, .op .xorB), (0xA9, .op .xorC), (0xAA, .op .xorD), (0xAB, .op .xorE), (0xAC, .op .xorH), (0xAD, .op .xorL), (0xAF, .op .xorA)]

/-- Jumps, high-page and absolute accesses, DI, EI, CP, and the switch to the secondary table (R89, R91). -/
def rowsHigh : List Row :=
  [(0xC3, .opNN .jp), (0xCD, .opNN .call), (0xE0, .opN .ldhNA), (0xEA, .opNN .ldNnA), (0xF0, .opN .ldhAN), (0xF3, .op .di),
   (0xFB, .op .ei), (0xFE, .opN .cp), (0xCB, .opN .prefixCb)]

/-- The bound rows of the primary table: 69 opcodes and the prefix (R91). -/
def primaryRows : List Row :=
  rowsPlain ++ rowsLdB ++ rowsLdC ++ rowsLdD ++ rowsLdE ++ rowsLdH ++ rowsLdL ++ rowsLdA ++ rowsXor ++ rowsHigh

/-- The first row that a byte keys. -/
def findRow : List Row → Byte → Option Form
  | [], _ => none
  | (op, f) :: rest, k => if k = op then some f else findRow rest k

/-- The primary table's entry of a byte: a bound entry, the prefix, or the undefined opcode (R88, R93). -/
def formOf (op : Byte) : Form :=
  match findRow primaryRows op with
  | some f => f
  | none => .op (.undefinedOpcode op)

/-- Why a byte list is no instruction. -/
inductive DecodeError where
  /-- the list is empty -/
  | noBytes
  /-- the opcode's operand bytes are not all there -/
  | operandMissing (op : Byte)
  deriving DecidableEq, Repr

/-- The instruction that a byte list begins with, and the bytes after it (R83, R86, R90). -/
def decode : List Byte → Except DecodeError (Instr × List Byte)
  | [] => .error .noBytes
  | op :: rest =>
    match formOf op with
    | .op i => .ok (i, rest)
    | .opN build =>
      match rest with
      | n :: rest => .ok (build n, rest)
      | [] => .error (.operandMissing op)
    | .opNN build =>
      match rest with
      | lo :: hi :: rest => .ok (build (Machine.mkWord hi lo), rest)
      | _ => .error (.operandMissing op)

/-- The bytes of an instruction, opcode first (R83, R91). -/
def encode : Instr → List Byte
  | .nop => [0x00]
  | .jr e => [0x18, e]
  | .jrNz e => [0x20, e]
  | .jrZ e => [0x28, e]
  | .ldAN n => [0x3E, n]
  | .ldBB => [0x40]
  | .ldBC => [0x41]
  | .ldBD => [0x42]
  | .ldBE => [0x43]
  | .ldBH => [0x44]
  | .ldBL => [0x45]
  | .ldBA => [0x47]
  | .ldCB => [0x48]
  | .ldCC => [0x49]
  | .ldCD => [0x4A]
  | .ldCE => [0x4B]
  | .ldCH => [0x4C]
  | .ldCL => [0x4D]
  | .ldCA => [0x4F]
  | .ldDB => [0x50]
  | .ldDC => [0x51]
  | .ldDD => [0x52]
  | .ldDE => [0x53]
  | .ldDH => [0x54]
  | .ldDL => [0x55]
  | .ldDA => [0x57]
  | .ldEB => [0x58]
  | .ldEC => [0x59]
  | .ldED => [0x5A]
  | .ldEE => [0x5B]
  | .ldEH => [0x5C]
  | .ldEL => [0x5D]
  | .ldEA => [0x5F]
  | .ldHB => [0x60]
  | .ldHC => [0x61]
  | .ldHD => [0x62]
  | .ldHE => [0x63]
  | .ldHH => [0x64]
  | .ldHL => [0x65]
  | .ldHA => [0x67]
  | .ldLB => [0x68]
  | .ldLC => [0x69]
  | .ldLD => [0x6A]
  | .ldLE => [0x6B]
  | .ldLH => [0x6C]
  | .ldLL => [0x6D]
  | .ldLA => [0x6F]
  | .ldAB => [0x78]
  | .ldAC => [0x79]
  | .ldAD => [0x7A]
  | .ldAE => [0x7B]
  | .ldAH => [0x7C]
  | .ldAL => [0x7D]
  | .ldAA => [0x7F]
  | .xorB => [0xA8]
  | .xorC => [0xA9]
  | .xorD => [0xAA]
  | .xorE => [0xAB]
  | .xorH => [0xAC]
  | .xorL => [0xAD]
  | .xorA => [0xAF]
  | .jp nn => [0xC3, Machine.loByte nn, Machine.hiByte nn]
  | .call nn => [0xCD, Machine.loByte nn, Machine.hiByte nn]
  | .ldhNA n => [0xE0, n]
  | .ldNnA nn => [0xEA, Machine.loByte nn, Machine.hiByte nn]
  | .ldhAN n => [0xF0, n]
  | .di => [0xF3]
  | .ei => [0xFB]
  | .cp n => [0xFE, n]
  | .prefixCb op2 => [0xCB, op2]
  | .undefinedOpcode op => [op]

/-- The instruction length, by which a sequential instruction advances `pc` (R84). -/
def Instr.length (i : Instr) : Nat := (encode i).length

/-- The table looked up last for an instruction and the byte that keyed it (R98 stage 3, R103). -/
def Instr.entry : Instr → Table × Byte
  | .prefixCb op2 => (.secondary, op2)
  | i => (.primary, (encode i).headD 0)

/-- The bytes of an instruction whose `nbits` bits are `w`, numbered as spec/opcode_table.json numbers them, zeros above,
up to the longest instruction. -/
def tableBytes (nbits w : Nat) : List Byte :=
  let v := w % 2 ^ nbits
  [BitVec.ofNat 8 v, BitVec.ofNat 8 (v / 256), BitVec.ofNat 8 (v / 65536)]

/-- The decoder's answer for such an instruction. -/
def decodeTableWord (nbits w : Nat) : Option Instr :=
  match decode (tableBytes nbits w) with
  | .ok (i, _) => some i
  | .error _ => none

end Sys2Proof
end

