-- ==== Sys2Proof/Machine/State.lean ====
section
/-! DEFINITION. The machine aggregate of spec/10_state.md R17, the loaded ROM image (R40), the environment's coming actions
(60_exceptions.md R151), the reasons a step stops, and the state after reset (70_reset_and_hazards.md R163 to R166). -/

namespace Sys2Proof.Machine

/-- Bytes by address, in one canonical form: addresses strictly rising, no entry equal to what an unlisted address reads as
(`Memory.wf`, `unlistedByte` in Memory.lean). -/
abbrev Memory := List Host.Cell

/-- `status` (R44): running, or ended by the undefined-opcode fault with its record (60_exceptions.md R131). -/
inductive Status where
  | running
  | faulted (table : Table) (key : Byte) (addr : Word)
  deriving DecidableEq, Repr

/-- The five interrupt sources, highest priority first (60_exceptions.md R136). -/
inductive Source where
  | vblank
  | lcdStat
  | timer
  | serial
  | joypad
  deriving DecidableEq, Repr

/-- One action of the environment agent between two steps (60_exceptions.md R151). The action "stop calling `execute()`" is the
end of a run and no action on the state. -/
inductive EnvAction where
  /-- `signal_interrupt(s)` (R137) -/
  | signalInterrupt (source : Source)
  /-- `joypad_signal(key, pressed)` (R155) -/
  | joypadSignal (key : Byte) (pressed : Bool)
  /-- write `v` to the I/O storage byte of address `a`, for `a` in `EnvWritable` -/
  | writeIo (a : Word) (v : Byte)
  /-- read any state: no effect -/
  | observe
  /-- `halt_stop <- true` (R162) -/
  | setHaltStop
  deriving DecidableEq, Repr

/-- Every piece of state the spec gives the machine (R17), the loaded image, and two fields of the model's own. -/
structure State where
  /-- A (bits 15..8) and F (bits 7..0) (R21, R27) -/
  af : Word
  /-- B and C (R21) -/
  bc : Word
  /-- D and E (R21) -/
  de : Word
  /-- H and L (R21) -/
  hl : Word
  /-- stack pointer (R24) -/
  sp : Word
  /-- program counter (R31) -/
  pc : Word
  /-- master-enable (R35) -/
  ime : Bool
  /-- the deferred-toggle latch `toggle_armed` (R36) -/
  toggleArmed : Bool
  /-- `vram`, `eram`, `wram`, `oam`, `io` (IF is the byte at 0xFF0F) and `hram` (R39), each byte at its bus address, work RAM at
  0xC000..0xDFFF (assumption log 10) -/
  mem : Memory
  /-- interrupt-enable register, address 0xFFFF (R38) -/
  ie : Byte
  /-- active switchable-bank index `rom_bank` (R41) -/
  romBank : Nat
  /-- joypad column select `joy_col` (R42) -/
  joyCol : Byte
  /-- joypad row state `joy_row`, active-low (R42) -/
  joyRow : Byte
  /-- cycle accumulator (R43) -/
  cycles : Nat
  /-- the external halt/stop condition `halt_stop` (R45) -/
  haltStop : Bool
  /-- R44 -/
  status : Status
  /-- the bytes of `RomImage` by image offset (R40); no step changes it (R18) -/
  rom : Memory
  /-- `RomLen` (00_scope.md R11) -/
  romLen : Nat
  /-- MODEL'S OWN: what the environment does before each coming step, next step first (assumption log 8) -/
  env : List (List EnvAction)
  /-- MODEL'S OWN: how many `PeriphRead` draws have been made (assumption log 6) -/
  draws : Nat
  deriving DecidableEq, Repr

/-- Why the machine stops. -/
inductive Fault where
  /-- The run has ended with this undefined-opcode fault record (60_exceptions.md R131 to R133). Raised by `step` alone, when `status`
  is already Faulted: `execute()` has no step then (40_dispatch.md R110). Safe: the spec's machine does not move either. The step
  that RAISES the fault is a next state, with `status` Faulted. -/
  | undefinedOpcode (table : Table) (key : Byte) (addr : Word)
  deriving DecidableEq, Repr

/-- Why an instruction has no meaning. -/
inductive Refusal where
  /-- The instruction is not modelled yet. Raised by no arm of `exec` now: every instruction has its meaning. Safe. -/
  | notModelled (mnemonic : String)
  deriving DecidableEq, Repr

/-- `Seed(SystemVariant)`, the accumulator after reset (R164). -/
def seed : SystemVariant → Byte
  | .dmg => 0x01
  | .sgb => 0x01
  | .cgb => 0x11
  | .mgb => 0xFF

/-- `init_ctl(system_variant)` with its `ResetIME` (R163 to R166), no image loaded and no environment action coming
(assumption logs 1, 4, 8, 9, 19). -/
def State.resetFor (variant : SystemVariant) (resetIme : Bool) : State where
  af := mkWord (seed variant) 0xB0
  bc := 0x0013
  de := 0x00D8
  hl := 0x014D
  sp := 0xFFFE
  pc := 0x0100
  ime := resetIme
  toggleArmed := false
  mem := []
  ie := 0x00
  romBank := 1
  joyCol := 0x00
  joyRow := 0x0F
  cycles := 0
  haltStop := false
  status := .running
  rom := []
  romLen := 0
  env := []
  draws := 0

/-- The machine right after reset, for this hardware's variant (R163, R167). -/
def State.reset : State := State.resetFor Config.systemVariant Config.resetIME

end Sys2Proof.Machine
end

