-- ==== Sys2Proof/Machine/Flags.lean ====
section
/-! DEFINITION. The flag byte F (spec/10_state.md R27 to R30) and every flag computation of the instruction set. -/

namespace Sys2Proof.Machine

/-- `flags(z, n, h, c)`: the flag byte with a zero low nibble (spec/00_scope.md R13). -/
def flags (z n h c : Bool) : Byte :=
  (if z then 0x80 else 0) ||| (if n then 0x40 else 0) ||| (if h then 0x20 else 0) ||| (if c then 0x10 else 0)

/-- F, the low byte of `af` (R27). -/
def State.f (s : State) : Byte := loByte s.af

/-- `F.Z`, bit 7 (R27, D5). -/
def State.flagZ (s : State) : Bool := s.f.getLsbD 7

/-- `F.N`, bit 6. -/
def State.flagN (s : State) : Bool := s.f.getLsbD 6

/-- `F.H`, bit 5. -/
def State.flagH (s : State) : Bool := s.f.getLsbD 5

/-- `F.C`, bit 4. -/
def State.flagC (s : State) : Bool := s.f.getLsbD 4

/-- F after an XOR with result `res`: only Z can be set (44_alu.md R124). -/
def xorFlags (res : Byte) : Byte := flags (res == 0) false false false

/-- F after CP of `a` with `n`, compared unsigned; H is `a > n`, no nibble borrow (44_alu.md R126). -/
def cpFlags (a n : Byte) : Byte := flags (a == n) true (decide (a.toNat > n.toNat)) (decide (a.toNat < n.toNat))

end Sys2Proof.Machine
end

