-- ==== Sys2Proof/Machine/Memory.lean ====
section
/-! DEFINITION. The canonical cell list that holds memory: reading, writing, and its form. -/

namespace Sys2Proof.Machine

/-- What an address that no cell lists reads as: 0x00, every storage byte's reset value (spec/10_state.md R39, D22). Inside the
ROM image it is only how the image's zero bytes are held. DESIGN CHOICE (the spec's own), unsafe: assumption log 9. -/
def unlistedByte : Byte := 0x00

/-- The byte at key `k`. -/
def Memory.read : Memory → Nat → Byte
  | [], _ => unlistedByte
  | c :: m, k => if k = c.1 then c.2 else Memory.read m k

/-- Puts a cell before `m`, or nothing where `v` is what an unlisted address reads as. -/
def Memory.consCell (k : Nat) (v : Byte) (m : Memory) : Memory :=
  if v = unlistedByte then m else (k, v) :: m

/-- Memory with `v` at key `k`, in canonical form again. -/
def Memory.write : Memory → Nat → Byte → Memory
  | [], k, v => Memory.consCell k v []
  | c :: m, k, v =>
    if k < c.1 then Memory.consCell k v (c :: m)
    else if k = c.1 then Memory.consCell k v m
    else c :: Memory.write m k v

/-- Every key of `m` is at least `lo` and they rise strictly; no cell holds the unlisted byte. -/
def Memory.wfFrom : Nat → Memory → Bool
  | _, [] => true
  | lo, c :: m => decide (lo ≤ c.1) && decide (c.2 ≠ unlistedByte) && Memory.wfFrom (c.1 + 1) m

/-- The canonical form. -/
def Memory.wf (m : Memory) : Bool := Memory.wfFrom 0 m

end Sys2Proof.Machine
end

