-- ==== Sys2Proof/Machine/Params.lean ====
section
/-! DEFINITION. The parameters of spec/00_scope.md R11 over addresses, at the defaults the spec decides (92_eei_decisions.md D11,
D12, D13), and the interrupt vectors (D16). -/

namespace Sys2Proof.Machine

/-- `IsBankSelect` (20_memory.md R55, D11). DESIGN CHOICE (the spec's own), unsafe: assumption log 5. -/
def isBankSelect (a : Word) : Bool := decide (0x2000 ≤ a.toNat) && decide (a.toNat ≤ 0x3FFF)

/-- `NewBank(v, b)` (R55, D11); the default does not read the old index `b`. -/
def newBank (v : Byte) (_b : Nat) : Nat :=
  if v &&& 0x1F = 0 then 1 else (v &&& 0x1F).toNat

/-- `PeriphSet`, default {0xFF00} (R63, D12): assumption log 6. -/
def periphSet : List Word := [0xFF00]

/-- A registered peripheral that is not the joypad: its reads are draws (R50). None under the default. -/
def isOtherPeriph (a : Word) : Bool := periphSet.contains a && a != 0xFF00

/-- `EnvWritable`, default 0xFF01..0xFF7F (60_exceptions.md R151, D13): assumption log 7. -/
def envWritable (a : Word) : Bool := decide (0xFF01 ≤ a.toNat) && decide (a.toNat ≤ 0xFF7F)

/-- The bit index of a source in IF and IE (60_exceptions.md R136, D15). -/
def Source.index : Source → Nat
  | .vblank => 0
  | .lcdStat => 1
  | .timer => 2
  | .serial => 3
  | .joypad => 4

/-- `1 << k` for the source's bit `k`. -/
def Source.mask (s : Source) : Byte := 1#8 <<< s.index

/-- `Vector(k) = 0x0040 + 8 * k` (R136, D16): assumption log 14. -/
def Source.vector (s : Source) : Word := BitVec.ofNat 16 (0x0040 + 8 * s.index)

end Sys2Proof.Machine
end

