-- ==== Sys2Proof/Machine/Ops.lean ====
section
/-! DEFINITION. The named operations of the machine: register views (spec/10_state.md R20 to R24), the bus (20_memory.md R47 to R71), the
joypad's register (60_exceptions.md R153, R154), the deferred toggle (R144, R145), interrupt service (R140 to R143) and the
undefined-opcode fault (R131). -/

namespace Sys2Proof.Machine

/-! ### Registers -/

/-- `x[r]` for an 8-bit view (R22). -/
def State.reg8 (s : State) : Reg8 → Byte
  | .a => hiByte s.af
  | .f => loByte s.af
  | .b => hiByte s.bc
  | .c => loByte s.bc
  | .d => hiByte s.de
  | .e => loByte s.de
  | .h => hiByte s.hl
  | .l => loByte s.hl

/-- `x[r] <- v` for an 8-bit view: the other byte of the word stays (R23). -/
def State.setReg8 (s : State) (r : Reg8) (v : Byte) : State :=
  match r with
  | .a => { s with af := mkWord v (loByte s.af) }
  | .f => { s with af := mkWord (hiByte s.af) v }
  | .b => { s with bc := mkWord v (loByte s.bc) }
  | .c => { s with bc := mkWord (hiByte s.bc) v }
  | .d => { s with de := mkWord v (loByte s.de) }
  | .e => { s with de := mkWord (hiByte s.de) v }
  | .h => { s with hl := mkWord v (loByte s.hl) }
  | .l => { s with hl := mkWord (hiByte s.hl) v }

/-- `pc <- target`. -/
def State.setPc (s : State) (target : Word) : State := { s with pc := target }

/-- `pc <- pc +16 len` (R32, R33). -/
def State.advance (s : State) (len : Word) : State := s.setPc (s.pc + len)

/-! ### The bus -/

/-- The regions of the address space (R48). -/
inductive Region where
  | romFixed
  | romSwitch
  | vram
  | eram
  | wram
  | echo
  | oam
  | unusable
  | io
  | hram
  | ie
  deriving DecidableEq, Repr

/-- The one region of an address (R48, R49). -/
def regionOf (a : Word) : Region :=
  if a.toNat ≤ 0x3FFF then .romFixed
  else if a.toNat ≤ 0x7FFF then .romSwitch
  else if a.toNat ≤ 0x9FFF then .vram
  else if a.toNat ≤ 0xBFFF then .eram
  else if a.toNat ≤ 0xDFFF then .wram
  else if a.toNat ≤ 0xFDFF then .echo
  else if a.toNat ≤ 0xFE9F then .oam
  else if a.toNat ≤ 0xFEFF then .unusable
  else if a.toNat ≤ 0xFF7F then .io
  else if a.toNat ≤ 0xFFFE then .hram
  else .ie

/-- The key in `mem` of the storage byte an address names: echo RAM names work RAM's (R59). -/
def storageKey (a : Word) : Nat :=
  match regionOf a with
  | .echo => a.toNat - 0x2000
  | _ => a.toNat

/-- The sentinel of an unmapped read (R67). -/
def sentinel : Byte := 0xFF

/-- `RomByte(i)` (R50, R67). -/
def State.romByte (s : State) (i : Nat) : Byte := if i < s.romLen then Memory.read s.rom i else sentinel

/-- The image offset that an address of the switchable bank shows (R53). -/
def State.bankOffset (s : State) (a : Word) : Nat := s.romBank * 0x4000 + (a.toNat - 0x4000)

/-- `joypad_read()` (60_exceptions.md R153). -/
def State.joypadRead (s : State) : Byte := (s.joyCol &&& 0xF0) ||| (s.joyRow &&& 0x0F)

/-- `joypad_write(v)` (60_exceptions.md R154). -/
def State.joypadWrite (s : State) (v : Byte) : State := { s with joyCol := v &&& 0xF0 }

/-- `periph_read(a)` (R50): the joypad's byte, or a draw. -/
def State.periphRead (s : State) (a : Word) : Byte :=
  if a = 0xFF00 then s.joypadRead else Config.periphRead s.draws a

/-- `periph_write(a, v)` (R51): the joypad's, or a byte delivered outside the machine. -/
def State.periphWrite (s : State) (a : Word) (v : Byte) : State :=
  if a = 0xFF00 then s.joypadWrite v else s

/-- The byte of storage that an address names. -/
def State.stored (s : State) (a : Word) : Byte := Memory.read s.mem (storageKey a)

/-- The state with `v` in the byte of storage that an address names. -/
def State.store (s : State) (a : Word) (v : Byte) : State := { s with mem := Memory.write s.mem (storageKey a) v }

/-- `read8(a)` (R50): the byte that a read of `a` returns. -/
def State.read8 (s : State) (a : Word) : Byte :=
  match regionOf a with
  | .romFixed => s.romByte a.toNat
  | .romSwitch => s.romByte (s.bankOffset a)
  | .vram | .eram | .wram | .echo | .oam | .hram => s.stored a
  | .unusable => sentinel
  | .io => if periphSet.contains a then s.periphRead a else s.stored a
  | .ie => s.ie

/-- What a read of `a` leaves: the next draw is a new one after a draw (R76), and nothing changes otherwise. -/
def State.noteRead (s : State) (a : Word) : State :=
  if isOtherPeriph a then { s with draws := s.draws + 1 } else s

/-- `write8(a, v)` (R51). -/
def State.write8 (s : State) (a : Word) (v : Byte) : State :=
  match regionOf a with
  | .romFixed | .romSwitch => if isBankSelect a then { s with romBank := newBank v s.romBank } else s
  | .vram | .eram | .wram | .echo | .oam | .hram => s.store a v
  | .unusable => s
  | .io => if periphSet.contains a then s.periphWrite a v else s.store a v
  | .ie => { s with ie := v }

/-- `read16(a)` and what it leaves: the low byte first, then the high byte at `a +16 1` (R69, R71). -/
def State.busRead16 (s : State) (a : Word) : Word × State :=
  let lo := s.read8 a
  let s1 := s.noteRead a
  (mkWord (s1.read8 (a + 1)) lo, s1.noteRead (a + 1))

/-- `read16(a)`: the word. -/
def State.read16 (s : State) (a : Word) : Word := (s.busRead16 a).1

/-- `write16(a, w)`: the low byte, then the high byte at `a +16 1`, each routed on its own (R70, R71). -/
def State.write16 (s : State) (a : Word) (w : Word) : State :=
  (s.write8 a (loByte w)).write8 (a + 1) (hiByte w)

/-- `sp <- sp -16 2; write16(sp, w)`: the push of CALL (42_control.md R117) and of interrupt service (R142). -/
def State.push16 (s : State) (w : Word) : State :=
  let s1 := { s with sp := s.sp - 2 }
  s1.write16 s1.sp w

/-! ### The interrupt controller -/

/-- IF, the storage byte at 0xFF0F (R37, R64). -/
def State.ifReg (s : State) : Byte := s.stored 0xFF0F

/-- IF written by the controller itself. -/
def State.setIf (s : State) (v : Byte) : State := s.store 0xFF0F v

/-- `signal_interrupt(source)` (R137). -/
def State.signalInterrupt (s : State) (src : Source) : State := s.setIf (s.ifReg ||| src.mask)

/-- `pend`: the pending and enabled sources (R140). -/
def State.pending (s : State) : Byte := s.ie &&& s.ifReg &&& 0x1F

/-- The source of the lowest set bit (R141). -/
def lowestSource (pend : Byte) : Option Source :=
  if pend.getLsbD 0 then some .vblank
  else if pend.getLsbD 1 then some .lcdStat
  else if pend.getLsbD 2 then some .timer
  else if pend.getLsbD 3 then some .serial
  else if pend.getLsbD 4 then some .joypad
  else none

/-- Interrupt service: clear the IF bit and `ime`, push `pc`, go to the vector, 20 cycles (R142, R143). -/
def State.serviceInterrupt (s : State) (src : Source) : State :=
  let s1 := s.setIf (s.ifReg &&& ~~~src.mask)
  let s2 := { s1 with ime := false }
  let s3 := s2.push16 s2.pc
  { s3 with pc := src.vector, cycles := s3.cycles + 20 }

/-- `poll_and_dispatch()`, stage 1 of a step (R140, R142). -/
def State.pollAndDispatch (s : State) : State :=
  if s.ime then
    match lowestSource s.pending with
    | some src => s.serviceInterrupt src
    | none => s
  else s

/-- `request_enable_toggle()` (R144). -/
def State.armToggle (s : State) : State := { s with toggleArmed := true }

/-- Stage 7 of a step (40_dispatch.md R108, R145). -/
def State.applyToggle (s : State) : State :=
  if s.toggleArmed then { s with ime := !s.ime, toggleArmed := false } else s

/-- `cycles +<- n`. -/
def State.addCycles (s : State) (n : Nat) : State := { s with cycles := s.cycles + n }

/-! ### The exception -/

/-- `raise UndefinedOpcode(table, key, a)`: the run ends with the record, `pc` stays at `a` (R131, 40_dispatch.md R104). There is no return
from it (R133), and no return from an interrupt is bound (R149). -/
def State.raiseUndefinedOpcode (s : State) (table : Table) (key : Byte) : State :=
  { s with status := .faulted table key s.pc }

/-! ### Placing code from outside -/

/-- The state with `v` where a fetch at `a` reads: a ROM image byte (the loader's, 70_reset_and_hazards.md R169), IE, or a storage
byte. Nothing can be placed in the unusable region. -/
def State.placeByte (s : State) (a : Word) (v : Byte) : State :=
  match regionOf a with
  | .romFixed => { s with rom := Memory.write s.rom a.toNat v, romLen := max s.romLen (a.toNat + 1) }
  | .romSwitch => { s with rom := Memory.write s.rom (s.bankOffset a) v, romLen := max s.romLen (s.bankOffset a + 1) }
  | .unusable => s
  | .ie => { s with ie := v }
  | .vram | .eram | .wram | .echo | .oam | .io | .hram => s.store a v

/-- Bytes placed from `a` on. -/
def State.placeBytes (s : State) (a : Word) : List Byte → State
  | [] => s
  | v :: vs => (s.placeByte a v).placeBytes (a + 1) vs

end Sys2Proof.Machine
end

