-- ==== Sys2Proof/Machine/Operands.lean ====
section
/-! DEFINITION. The operand forms: fetching an instruction with its immediates (spec/30_encoding.md R86, 40_dispatch.md R101 to R103), the
high-page address and the relative jump target. -/

namespace Sys2Proof.Machine

/-- The effective address of LDH: `0xFF00 + n` (R86). -/
def highPage (n : Byte) : Word := mkWord 0xFF n

/-- The target of a relative jump at `pc`: `pc +16 2` plus the signed displacement, modulo 65536 (42_control.md R113). -/
def jrTarget (pc : Word) (e : Byte) : Word := pc + 2 + sext8 e

/-- The instruction at `pc` and what reading its bytes leaves: the opcode byte, then the operand bytes its entry has, in
ascending order (R101, R103, R111). An unbound opcode reads no operand. -/
def State.fetchInstr (s : State) : Instr × State :=
  let op := s.read8 s.pc
  let s1 := s.noteRead s.pc
  match formOf op with
  | .op i => (i, s1)
  | .opN build => (build (s1.read8 (s1.pc + 1)), s1.noteRead (s1.pc + 1))
  | .opNN build => (build (s1.read16 (s1.pc + 1)), (s1.busRead16 (s1.pc + 1)).2)

end Sys2Proof.Machine
end

