-- ==== Sys2Proof/Machine/Alu.lean ====
section
/-! DEFINITION. Logic and compare (spec/44_alu.md). -/

namespace Sys2Proof.Machine

/-- XOR r (R124): the result in A, F recomputed. -/
def xorReg (r : Reg8) (s : State) : State :=
  let res := s.reg8 .a ^^^ s.reg8 r
  ((s.setReg8 .a res).setReg8 .f (xorFlags res)).advance 1

/-- XOR B (R124). -/
def execXorB (s : State) : Host.Outcome State Fault Refusal := .next (xorReg .b s)

/-- XOR C (R124). -/
def execXorC (s : State) : Host.Outcome State Fault Refusal := .next (xorReg .c s)

/-- XOR D (R124). -/
def execXorD (s : State) : Host.Outcome State Fault Refusal := .next (xorReg .d s)

/-- XOR E (R124). -/
def execXorE (s : State) : Host.Outcome State Fault Refusal := .next (xorReg .e s)

/-- XOR H (R124). -/
def execXorH (s : State) : Host.Outcome State Fault Refusal := .next (xorReg .h s)

/-- XOR L (R124). -/
def execXorL (s : State) : Host.Outcome State Fault Refusal := .next (xorReg .l s)

/-- XOR A, the fast path: A is zeroed and only Z is set, whatever A and F were (R125). -/
def execXorA (s : State) : Host.Outcome State Fault Refusal :=
  .next (((s.setReg8 .a 0x00).setReg8 .f (flags true false false false)).advance 1)

/-- CP n (R126): only F and `pc` change. -/
def execCp (n : Byte) (s : State) : Host.Outcome State Fault Refusal :=
  .next ((s.setReg8 .f (cpFlags (s.reg8 .a) n)).advance 2)

end Sys2Proof.Machine
end

