-- ==== Sys2Proof/Machine/Control.lean ====
section
/-! DEFINITION. Control transfer (spec/42_control.md). -/

namespace Sys2Proof.Machine

/-- A relative jump that is taken when `taken` (R113 to R115). -/
def relativeJump (taken : Bool) (e : Byte) (s : State) : State :=
  if taken then s.setPc (jrTarget s.pc e) else s.advance 2

/-- JR e (R113). -/
def execJr (e : Byte) (s : State) : Host.Outcome State Fault Refusal := .next (relativeJump true e s)

/-- JR NZ,e (R114). -/
def execJrNz (e : Byte) (s : State) : Host.Outcome State Fault Refusal := .next (relativeJump (!s.flagZ) e s)

/-- JR Z,e (R115). -/
def execJrZ (e : Byte) (s : State) : Host.Outcome State Fault Refusal := .next (relativeJump s.flagZ e s)

/-- JP nn (R116). -/
def execJp (nn : Word) (s : State) : Host.Outcome State Fault Refusal := .next (s.setPc nn)

/-- CALL nn (R117): the pushed value is `pc +16 3`. -/
def execCall (nn : Word) (s : State) : Host.Outcome State Fault Refusal := .next ((s.push16 (s.pc + 3)).setPc nn)

end Sys2Proof.Machine
end

