-- ==== Sys2Proof/Machine/InterruptControl.lean ====
section
/-! DEFINITION. Interrupt enable and disable, both by the deferred toggle (spec/45_interrupt_control.md). -/

namespace Sys2Proof.Machine

/-- DI (R128): arms the toggle; stage 7 of the same step flips `ime`. -/
def execDi (s : State) : Host.Outcome State Fault Refusal := .next (s.armToggle.advance 1)

/-- EI (R129): the same effect as DI. -/
def execEi (s : State) : Host.Outcome State Fault Refusal := .next (s.armToggle.advance 1)

end Sys2Proof.Machine
end

