-- ==== Sys2Proof/Machine/Loads.lean ====
section
/-! DEFINITION. Loads and stores (spec/43_loads.md). -/

namespace Sys2Proof.Machine

/-- LD A,n (R119). -/
def execLdAN (n : Byte) (s : State) : Host.Outcome State Fault Refusal := .next ((s.setReg8 .a n).advance 2)

/-- LD r,r' (R120): copy, then advance. -/
def loadReg (dst src : Reg8) (s : State) : State := (s.setReg8 dst (s.reg8 src)).advance 1

/-- LD B,B (R120). -/
def execLdBB (s : State) : Host.Outcome State Fault Refusal := .next (loadReg .b .b s)

/-- LD B,C (R120). -/
def execLdBC (s : State) : Host.Outcome State Fault Refusal := .next (loadReg .b .c s)

/-- LD B,D (R120). -/
def execLdBD (s : State) : Host.Outcome State Fault Refusal := .next (loadReg .b .d s)

/-- LD B,E (R120). -/
def execLdBE (s : State) : Host.Outcome State Fault Refusal := .next (loadReg .b .e s)

/-- LD B,H (R120). -/
def execLdBH (s : State) : Host.Outcome State Fault Refusal := .next (loadReg .b .h s)

/-- LD B,L (R120). -/
def execLdBL (s : State) : Host.Outcome State Fault Refusal := .next (loadReg .b .l s)

/-- LD B,A (R120). -/
def execLdBA (s : State) : Host.Outcome State Fault Refusal := .next (loadReg .b .a s)

/-- LD C,B (R120). -/
def execLdCB (s : State) : Host.Outcome State Fault Refusal := .next (loadReg .c .b s)

/-- LD C,C (R120). -/
def execLdCC (s : State) : Host.Outcome State Fault Refusal := .next (loadReg .c .c s)

/-- LD C,D (R120). -/
def execLdCD (s : State) : Host.Outcome State Fault Refusal := .next (loadReg .c .d s)

/-- LD C,E (R120). -/
def execLdCE (s : State) : Host.Outcome State Fault Refusal := .next (loadReg .c .e s)

/-- LD C,H (R120). -/
def execLdCH (s : State) : Host.Outcome State Fault Refusal := .next (loadReg .c .h s)

/-- LD C,L (R120). -/
def execLdCL (s : State) : Host.Outcome State Fault Refusal := .next (loadReg .c .l s)

/-- LD C,A (R120). -/
def execLdCA (s : State) : Host.Outcome State Fault Refusal := .next (loadReg .c .a s)

/-- LD D,B (R120). -/
def execLdDB (s : State) : Host.Outcome State Fault Refusal := .next (loadReg .d .b s)

/-- LD D,C (R120). -/
def execLdDC (s : State) : Host.Outcome State Fault Refusal := .next (loadReg .d .c s)

/-- LD D,D (R120). -/
def execLdDD (s : State) : Host.Outcome State Fault Refusal := .next (loadReg .d .d s)

/-- LD D,E (R120). -/
def execLdDE (s : State) : Host.Outcome State Fault Refusal := .next (loadReg .d .e s)

/-- LD D,H (R120). -/
def execLdDH (s : State) : Host.Outcome State Fault Refusal := .next (loadReg .d .h s)

/-- LD D,L (R120). -/
def execLdDL (s : State) : Host.Outcome State Fault Refusal := .next (loadReg .d .l s)

/-- LD D,A (R120). -/
def execLdDA (s : State) : Host.Outcome State Fault Refusal := .next (loadReg .d .a s)

/-- LD E,B (R120). -/
def execLdEB (s : State) : Host.Outcome State Fault Refusal := .next (loadReg .e .b s)

/-- LD E,C (R120). -/
def execLdEC (s : State) : Host.Outcome State Fault Refusal := .next (loadReg .e .c s)

/-- LD E,D (R120). -/
def execLdED (s : State) : Host.Outcome State Fault Refusal := .next (loadReg .e .d s)

/-- LD E,E (R120). -/
def execLdEE (s : State) : Host.Outcome State Fault Refusal := .next (loadReg .e .e s)

/-- LD E,H (R120). -/
def execLdEH (s : State) : Host.Outcome State Fault Refusal := .next (loadReg .e .h s)

/-- LD E,L (R120). -/
def execLdEL (s : State) : Host.Outcome State Fault Refusal := .next (loadReg .e .l s)

/-- LD E,A (R120). -/
def execLdEA (s : State) : Host.Outcome State Fault Refusal := .next (loadReg .e .a s)

/-- LD H,B (R120). -/
def execLdHB (s : State) : Host.Outcome State Fault Refusal := .next (loadReg .h .b s)

/-- LD H,C (R120). -/
def execLdHC (s : State) : Host.Outcome State Fault Refusal := .next (loadReg .h .c s)

/-- LD H,D (R120). -/
def execLdHD (s : State) : Host.Outcome State Fault Refusal := .next (loadReg .h .d s)

/-- LD H,E (R120). -/
def execLdHE (s : State) : Host.Outcome State Fault Refusal := .next (loadReg .h .e s)

/-- LD H,H (R120). -/
def execLdHH (s : State) : Host.Outcome State Fault Refusal := .next (loadReg .h .h s)

/-- LD H,L (R120). -/
def execLdHL (s : State) : Host.Outcome State Fault Refusal := .next (loadReg .h .l s)

/-- LD H,A (R120). -/
def execLdHA (s : State) : Host.Outcome State Fault Refusal := .next (loadReg .h .a s)

/-- LD L,B (R120). -/
def execLdLB (s : State) : Host.Outcome State Fault Refusal := .next (loadReg .l .b s)

/-- LD L,C (R120). -/
def execLdLC (s : State) : Host.Outcome State Fault Refusal := .next (loadReg .l .c s)

/-- LD L,D (R120). -/
def execLdLD (s : State) : Host.Outcome State Fault Refusal := .next (loadReg .l .d s)

/-- LD L,E (R120). -/
def execLdLE (s : State) : Host.Outcome State Fault Refusal := .next (loadReg .l .e s)

/-- LD L,H (R120). -/
def execLdLH (s : State) : Host.Outcome State Fault Refusal := .next (loadReg .l .h s)

/-- LD L,L (R120). -/
def execLdLL (s : State) : Host.Outcome State Fault Refusal := .next (loadReg .l .l s)

/-- LD L,A (R120). -/
def execLdLA (s : State) : Host.Outcome State Fault Refusal := .next (loadReg .l .a s)

/-- LD A,B (R120). -/
def execLdAB (s : State) : Host.Outcome State Fault Refusal := .next (loadReg .a .b s)

/-- LD A,C (R120). -/
def execLdAC (s : State) : Host.Outcome State Fault Refusal := .next (loadReg .a .c s)

/-- LD A,D (R120). -/
def execLdAD (s : State) : Host.Outcome State Fault Refusal := .next (loadReg .a .d s)

/-- LD A,E (R120). -/
def execLdAE (s : State) : Host.Outcome State Fault Refusal := .next (loadReg .a .e s)

/-- LD A,H (R120). -/
def execLdAH (s : State) : Host.Outcome State Fault Refusal := .next (loadReg .a .h s)

/-- LD A,L (R120). -/
def execLdAL (s : State) : Host.Outcome State Fault Refusal := .next (loadReg .a .l s)

/-- LD A,A (R120). -/
def execLdAA (s : State) : Host.Outcome State Fault Refusal := .next (loadReg .a .a s)

/-- LDH (n),A (R121). -/
def execLdhNA (n : Byte) (s : State) : Host.Outcome State Fault Refusal :=
  .next ((s.write8 (highPage n) (s.reg8 .a)).advance 2)

/-- LDH A,(n) (R122). -/
def execLdhAN (n : Byte) (s : State) : Host.Outcome State Fault Refusal :=
  .next (((s.noteRead (highPage n)).setReg8 .a (s.read8 (highPage n))).advance 2)

/-- LD (nn),A (R123). -/
def execLdNnA (nn : Word) (s : State) : Host.Outcome State Fault Refusal := .next ((s.write8 nn (s.reg8 .a)).advance 3)

end Sys2Proof.Machine
end

