-- ==== Sys2Proof/Machine/Nop.lean ====
section
/-! DEFINITION. No operation (spec/41_nop.md). -/

namespace Sys2Proof.Machine

/-- NOP (R112). -/
def execNop (s : State) : Host.Outcome State Fault Refusal := .next (s.advance 1)

end Sys2Proof.Machine
end

