-- ==== Sys2Proof/Machine/Undefined.lean ====
section
/-! DEFINITION. The undefined opcodes of both tables (spec/30_encoding.md R92, R93; 40_dispatch.md R104; 60_exceptions.md R131). -/

namespace Sys2Proof.Machine

/-- The prefix 0xCB and its second byte: the secondary table binds nothing, so the fault is raised (R92, R103, R104). -/
def execPrefixCb (op2 : Byte) (s : State) : Host.Outcome State Fault Refusal :=
  .next (s.raiseUndefinedOpcode .secondary op2)

/-- An unbound primary byte (R93, R104). -/
def execUndefinedOpcode (op : Byte) (s : State) : Host.Outcome State Fault Refusal :=
  .next (s.raiseUndefinedOpcode .primary op)

end Sys2Proof.Machine
end

