-- ==== Sys2Proof/Machine/Environment.lean ====
section
/-! DEFINITION. The environment agent between two steps (spec/60_exceptions.md R151 to R158). -/

namespace Sys2Proof.Machine

/-- A key event's column is selected (R155). -/
def State.solicited (s : State) (key : Byte) : Bool := key &&& 0xF0 &&& s.joyCol != 0

/-- A solicited press: the row bits are cleared (R156). -/
def State.joypadPress (s : State) (key : Byte) : State :=
  { s with joyRow := s.joyRow &&& ~~~(key &&& 0x0F) &&& 0x0F }

/-- A solicited release: the row bits are set, the Joypad interrupt is signalled, `halt_stop` is cleared (R157). -/
def State.joypadRelease (s : State) (key : Byte) : State :=
  let s1 := { s with joyRow := (s.joyRow ||| (key &&& 0x0F)) &&& 0x0F }
  { s1.signalInterrupt .joypad with haltStop := false }

/-- `joypad_signal(key, pressed)`: an unsolicited event changes nothing, press or release (R155, R158). -/
def State.joypadSignal (s : State) (key : Byte) (pressed : Bool) : State :=
  if s.solicited key then (if pressed then s.joypadPress key else s.joypadRelease key) else s

/-- The effect of one action (R151). A write outside `EnvWritable` is no action the environment has: nothing changes. -/
def State.envAct (s : State) : EnvAction → State
  | .signalInterrupt src => s.signalInterrupt src
  | .joypadSignal key pressed => s.joypadSignal key pressed
  | .writeIo a v => if envWritable a then s.store a v else s
  | .observe => s
  | .setHaltStop => { s with haltStop := true }

/-- A sequence of actions, first to last. -/
def State.envActs (s : State) : List EnvAction → State
  | [] => s
  | act :: acts => (s.envAct act).envActs acts

/-- The environment's turn before a step: the actions at the head of `env`, none where it is empty (R147, R151). -/
def State.envTurn (s : State) : State :=
  match s.env with
  | [] => s
  | acts :: rest => ({ s with env := rest }).envActs acts

end Sys2Proof.Machine
end

