-- ==== Sys2Proof/Machine/Execute.lean ====
section
/-! DEFINITION. The step function `execute()` in its seven stages (spec/40_dispatch.md R98 to R110), with the environment's turn
before it (60_exceptions.md R147, R151), and the placing of an instruction where the next step fetches. -/

namespace Sys2Proof.Machine

/-- Stages 6 and 7 after the handler of `i`: the cost of its entry, then the armed toggle (R106, R108). Neither runs after
the undefined-opcode fault (R104, R131). -/
def State.finishStep (i : Instr) (s : State) : State :=
  match s.status with
  | .running => (s.addCycles (Config.baseCost i.entry.1 i.entry.2)).applyToggle
  | .faulted _ _ _ => s

/-- `execute()` of a running machine: poll, fetch and lookup, handler, cost and toggle (R98). -/
def State.execute (s : State) : Host.Outcome State Fault Refusal :=
  let fetched := s.pollAndDispatch.fetchInstr
  match exec fetched.1 fetched.2 with
  | .next t => .next (t.finishStep fetched.1)
  | .fault r => .fault r
  | .refused r => .refused r

/-- One step: the environment's turn, then `execute()`; a faulted machine has no step (R110). -/
def State.stepOnce (s : State) : Host.Outcome State Fault Refusal :=
  match s.status with
  | .running => s.envTurn.execute
  | .faulted table key addr => .fault (.undefinedOpcode table key addr)

/-- Where the next step fetches its opcode: `pc` after the environment's turn and the poll. -/
def State.nextFetch (s : State) : Word := s.envTurn.pollAndDispatch.pc

/-- The bytes placed there. -/
def State.placeAtFetch (s : State) (bs : List Byte) : State := s.placeBytes s.nextFetch bs

end Sys2Proof.Machine
end

