-- ==== Sys2Proof/Safety.lean ====
section
/-! DEFINITION. What the statements call a good state, which reads a store can change, and a run with no fault recorded. -/

namespace Sys2Proof.Machine

/-- The addresses whose storage `mem` holds: video, external and work RAM (echo RAM is work RAM's), OAM, the I/O window and high RAM
(spec/10_state.md R39, 20_memory.md R48). -/
def isStorageKey (k : Nat) : Bool :=
  (decide (0x8000 ≤ k) && decide (k ≤ 0xDFFF)) || (decide (0xFE00 ≤ k) && decide (k ≤ 0xFE9F))
    || (decide (0xFF00 ≤ k) && decide (k ≤ 0xFFFE))

/-- An address whose reads and writes go to a byte of storage (R50, R51): not ROM, the unusable region, a registered peripheral's
register or IE. -/
def isPlain (a : Word) : Bool :=
  match regionOf a with
  | .vram | .eram | .wram | .echo | .oam | .hram => true
  | .io => !periphSet.contains a
  | .romFixed | .romSwitch | .unusable | .ie => false

/-- A store to `a` can change what `b` reads: in ROM only as a bank select, and then the switchable bank (R54, R55); nowhere in the
unusable region (R68); elsewhere the byte itself, seen under both its addresses where it is work RAM's (R59). -/
def storeReaches (a b : Word) : Bool :=
  match regionOf a with
  | .romFixed | .romSwitch => isBankSelect a && regionOf b == .romSwitch
  | .unusable => false
  | _ => storageKey a == storageKey b

/-- What every state between two steps satisfies: canonical cells, only storage addresses listed, F's low nibble 0 (10_state.md R28), the
toggle latch clear (R36), the joypad's column byte with bits 3..0 clear and its row byte with bits 7..4 clear (R42). -/
structure State.Inv (s : State) : Prop where
  memWf : Memory.wf s.mem = true
  memKeys : ∀ c ∈ s.mem, isStorageKey c.1 = true
  flagLow : s.f &&& 0x0F = 0
  toggleClear : s.toggleArmed = false
  joyColLow : s.joyCol &&& 0x0F = 0
  joyRowHigh : s.joyRow &&& 0xF0 = 0

/-- The active bank is one that the default `NewBank` gives (20_memory.md R55, D11). -/
def State.BankInRange (s : State) : Prop := 1 ≤ s.romBank ∧ s.romBank ≤ 31

/-- No fault is recorded (92_eei_decisions.md D35: claims take it as a premise). -/
def State.noFault (s : State) : Prop := s.status = .running

/-- The poll services nothing: `ime` is false, or no source is pending and enabled (60_exceptions.md R140). -/
def State.quiet (s : State) : Prop := s.ime = false ∨ s.pending = 0

end Sys2Proof.Machine
end

