-- ==== Sys2Proof/Certificates/Slice0/Obligations.lean ====
section
/-! DEFINITION. The statements for the provers, from the numbered rules of spec/. A docstring that names a decision D<n> says that
the clause is the spec's own choice there, and names the log entry. -/

open Sys2Proof Sys2Proof.Machine

/-! ### Words the statements share -/

/-- The register codes of 30_encoding.md R87 (D4); F has none, and 110 names no register. -/
def Sys2Proof.Machine.regCode : Reg8 → Option (BitVec 3)
  | .b => some 0b000
  | .c => some 0b001
  | .d => some 0b010
  | .e => some 0b011
  | .h => some 0b100
  | .l => some 0b101
  | .a => some 0b111
  | .f => none

/-- The storage addresses, each range by its numbers (20_memory.md R48 with D6): video, external and work RAM, echo RAM, OAM, the I/O
window without the joypad's register, high RAM. That every byte of the I/O window but 0xFF00 is storage is the default PeriphSet
(D12, log 6). -/
def Sys2Proof.Machine.InStorage (a : Word) : Prop :=
  (0x8000 ≤ a.toNat ∧ a.toNat ≤ 0xFE9F) ∨ (0xFF01 ≤ a.toNat ∧ a.toNat ≤ 0xFFFE)

/-- The instructions that store to memory (20_memory.md R74). -/
def Sys2Proof.Machine.storesMemory : Instr → Bool
  | .ldhNA _ | .ldNnA _ | .call _ => true
  | _ => false

/-- The instructions that assign `pc` instead of advancing it, or raise the fault with `pc` not advanced (10_state.md R32, R131). -/
def Sys2Proof.Machine.assignsPc : Instr → Bool
  | .jr _ | .jrNz _ | .jrZ _ | .jp _ | .call _ | .prefixCb _ | .undefinedOpcode _ => true
  | _ => false

/-- The instructions that write F (10_state.md R29). -/
def Sys2Proof.Machine.writesFlags : Instr → Bool
  | .cp _ => true
  | i => i.xorReg.isSome

/-- The state in which a step fetches: after the environment's turn, which is the model's own place for the actions that R151 puts
between two steps (log 8), and after the poll (40_dispatch.md R98, step 1). -/
def Sys2Proof.Machine.State.atFetch (s : State) : State := s.envTurn.pollAndDispatch

/-- The opcode byte that a step fetches (R101). -/
def Sys2Proof.Machine.State.fetchedOpcode (s : State) : Byte := s.atFetch.read8 s.atFetch.pc

/-! ### Encoding -/

/-- Every well-formed instruction, at every value of its operands, is read back from its own bytes, and the bytes after it are left
(R83, R86, R91; opcode bytes by D2 to D4, log 12). Choices: the bound set by D1, log 12; one constructor for the unbound bytes by
log 26. -/
def Obligations.DecodeOfEncode : Prop :=
  ∀ i : Instr, WellFormed i → ∀ rest : List Byte, decode (encode i ++ rest) = .ok (i, rest)

/-- Every byte list that decodes is the bytes of the instruction it decodes to and the rest, and that instruction is well formed: no
byte sequence is read as an instruction it does not spell (R83, R91, R95). Choices: the bound set, opcode bytes and register codes
by D1 to D4, log 12; one constructor for the unbound bytes by log 26. -/
def Obligations.EncodeOfDecode : Prop :=
  ∀ (bs : List Byte) (i : Instr) (rest : List Byte), decode bs = .ok (i, rest) → WellFormed i ∧ encode i ++ rest = bs

/-- LD r,r' is `01dddsss` and XOR r is `10101sss` with the register codes of R87, and all seven registers take every place
(R85, R87; the spec's choice D2 to D4, log 12). -/
def Obligations.RegisterFieldsOfLoadAndXor : Prop :=
  (∀ i dst r, i.loadRegs = some (dst, r) →
    ∃ cd cr, regCode dst = some cd ∧ regCode r = some cr ∧ encode i = [(0b01#2 ++ cd ++ cr : BitVec 8)]) ∧
  (∀ i r, i.xorReg = some r → ∃ c, regCode r = some c ∧ encode i = [(0b10101#5 ++ c : BitVec 8)]) ∧
  (∀ dst r, dst ≠ .f → r ≠ .f → ∃ i : Instr, i.loadRegs = some (dst, r)) ∧
  (∀ r, r ≠ .f → ∃ i : Instr, i.xorReg = some r)

/-- Every byte that R91 does not bind decodes to the undefined opcode of that byte and takes no operand byte; 0xCB takes its key; the
unbound bytes are 186 (R91 to R93; the spec's choice D1, log 12). Choices: the byte of the prefix by D2, log 12; one constructor for
the unbound bytes by log 26. -/
def Obligations.UnboundBytesAreUndefinedOpcodes : Prop :=
  (∀ (op : Byte) (rest : List Byte), boundByte op = false → decode (op :: rest) = .ok (.undefinedOpcode op, rest)) ∧
  (∀ (key : Byte) (rest : List Byte), decode (0xCB :: key :: rest) = .ok (.prefixCb key, rest)) ∧
  ((List.range 256).filter fun n => !boundByte (BitVec.ofNat 8 n)).length = 186

/-- Words written out from the encodings of R96 decode to what they spell (bytes by D2, log 12). -/
def Obligations.SpecWordsDecode : Prop :=
  decode [0x00] = .ok (.nop, []) ∧ decode [0x18, 0x05] = .ok (.jr 0x05, []) ∧ decode [0x20, 0xFC] = .ok (.jrNz 0xFC, []) ∧
  decode [0x28, 0x02] = .ok (.jrZ 0x02, []) ∧ decode [0xC3, 0x00, 0xC0] = .ok (.jp 0xC000, []) ∧
  decode [0xCD, 0x00, 0x03] = .ok (.call 0x0300, []) ∧ decode [0x78] = .ok (.ldAB, []) ∧ decode [0xA9] = .ok (.xorC, []) ∧
  decode [0xEA, 0x23, 0xE1] = .ok (.ldNnA 0xE123, []) ∧ decode [0xFE, 0x05] = .ok (.cp 0x05, []) ∧
  decode [0xF3] = .ok (.di, []) ∧ decode [0xFB] = .ok (.ei, []) ∧ decode [0xCB, 0x37] = .ok (.prefixCb 0x37, [])

/-! ### Registers -/

/-- Reading an 8-bit view gives its byte of the word (R22); writing one changes only its byte, as R23 writes it, and nothing else
of the machine; writing a word changes both its views (R23). -/
def Obligations.RegisterViewsAliasTheirWord : Prop :=
  (∀ s : State, s.reg8 .a = s.af.extractLsb 15 8 ∧ s.reg8 .f = s.af.extractLsb 7 0 ∧ s.reg8 .b = s.bc.extractLsb 15 8 ∧
    s.reg8 .c = s.bc.extractLsb 7 0 ∧ s.reg8 .d = s.de.extractLsb 15 8 ∧ s.reg8 .e = s.de.extractLsb 7 0 ∧
    s.reg8 .h = s.hl.extractLsb 15 8 ∧ s.reg8 .l = s.hl.extractLsb 7 0) ∧
  (∀ (s : State) (v : Byte),
    s.setReg8 .a v = { s with af := (v.zeroExtend 16 <<< 8) ||| (s.af &&& 0x00FF) } ∧
    s.setReg8 .f v = { s with af := (s.af &&& 0xFF00) ||| v.zeroExtend 16 } ∧
    s.setReg8 .b v = { s with bc := (v.zeroExtend 16 <<< 8) ||| (s.bc &&& 0x00FF) } ∧
    s.setReg8 .c v = { s with bc := (s.bc &&& 0xFF00) ||| v.zeroExtend 16 } ∧
    s.setReg8 .d v = { s with de := (v.zeroExtend 16 <<< 8) ||| (s.de &&& 0x00FF) } ∧
    s.setReg8 .e v = { s with de := (s.de &&& 0xFF00) ||| v.zeroExtend 16 } ∧
    s.setReg8 .h v = { s with hl := (v.zeroExtend 16 <<< 8) ||| (s.hl &&& 0x00FF) } ∧
    s.setReg8 .l v = { s with hl := (s.hl &&& 0xFF00) ||| v.zeroExtend 16 }) ∧
  (∀ (s : State) (w : Word),
    ({ s with af := w }.reg8 .a = w.extractLsb 15 8 ∧ { s with af := w }.reg8 .f = w.extractLsb 7 0) ∧
    ({ s with bc := w }.reg8 .b = w.extractLsb 15 8 ∧ { s with bc := w }.reg8 .c = w.extractLsb 7 0) ∧
    ({ s with de := w }.reg8 .d = w.extractLsb 15 8 ∧ { s with de := w }.reg8 .e = w.extractLsb 7 0) ∧
    ({ s with hl := w }.reg8 .h = w.extractLsb 15 8 ∧ { s with hl := w }.reg8 .l = w.extractLsb 7 0))

/-! ### The bus -/

/-- ROM reads: image byte `a` in the fixed bank, byte `rom_bank * 0x4000 + (a - 0x4000)` in the switchable one, and 0xFF at or past
`RomLen` (R52, R53, R67; D10, log 28). Choices: region boundaries by D6, log 11; the bank size by log 5; the image as a field of
State by log 1. -/
def Obligations.RomReadsTheImage : Prop :=
  ∀ (s : State) (a : Word),
    (a.toNat ≤ 0x3FFF → s.read8 a = if a.toNat < s.romLen then Memory.read s.rom a.toNat else 0xFF) ∧
    (0x4000 ≤ a.toNat → a.toNat ≤ 0x7FFF →
      s.read8 a = if s.romBank * 0x4000 + (a.toNat - 0x4000) < s.romLen
        then Memory.read s.rom (s.romBank * 0x4000 + (a.toNat - 0x4000)) else 0xFF)

/-- A write to the ROM region never changes the image, and one to an address that is not a bank select changes nothing (R54). -/
def Obligations.RomWritesNeverChangeTheImage : Prop :=
  ∀ (s : State) (a : Word) (v : Byte), a.toNat ≤ 0x7FFF →
    (s.write8 a v).rom = s.rom ∧ (s.write8 a v).romLen = s.romLen ∧ (isBankSelect a = false → s.write8 a v = s)

/-- A write to 0x2000..0x3FFF sets the active bank to the value's low five bits, and to 1 where they are 0; no other address is a bank
select (R55; the spec's default D11, log 5). -/
def Obligations.BankSelectStore : Prop :=
  (∀ (s : State) (a : Word) (v : Byte), 0x2000 ≤ a.toNat → a.toNat ≤ 0x3FFF →
    s.write8 a v = { s with romBank := if v.toNat % 32 = 0 then 1 else v.toNat % 32 }) ∧
  (∀ (s : State) (a : Word) (v : Byte), a.toNat < 0x2000 ∨ 0x3FFF < a.toNat → (s.write8 a v).romBank = s.romBank)

/-- A storage byte reads back what was written to it, in video, external, work and echo RAM, OAM, the I/O window and high RAM; work RAM
and its echo are one storage (R56 to R60, R62, R65, R78; boundaries D6, D7, logs 10, 11; that every I/O byte but 0xFF00 is storage
is the default PeriphSet, D12, log 6). Premise: the canonical form of memory, which `StepKeepsTheInvariant` keeps. Choices: external
RAM always enabled by D8 and no lock-out by D27, log 11. -/
def Obligations.StorageReadsBack : Prop :=
  ∀ (s : State) (a : Word) (v : Byte), Memory.wf s.mem = true → InStorage a →
    (s.write8 a v).read8 a = v ∧
    (0xC000 ≤ a.toNat → a.toNat ≤ 0xDDFF → (s.write8 a v).read8 (a + 0x2000) = v ∧ (s.write8 (a + 0x2000) v).read8 a = v)

/-- The unusable region reads the sentinel and drops writes (R61, R67, R68; D9, log 11). Choices: the boundaries by D6, log 11. -/
def Obligations.UnusableRegionIsUnmapped : Prop :=
  ∀ (s : State) (a : Word) (v : Byte), 0xFEA0 ≤ a.toNat → a.toNat ≤ 0xFEFF → s.read8 a = 0xFF ∧ s.write8 a v = s

/-- Address 0xFFFF is IE, all eight bits (R66). -/
def Obligations.InterruptEnableRegister : Prop :=
  ∀ (s : State) (v : Byte), s.read8 0xFFFF = s.ie ∧ s.write8 0xFFFF v = { s with ie := v }

/-- A word written to storage reads back, its low byte at the address and its high byte at the next (R69, R70, R72; D30, D31, log 23;
storage in the I/O window by D12, log 6). Choices: regions of storage by D6 to D8 and D27, log 11. -/
def Obligations.WordsAreLittleEndian : Prop :=
  ∀ (s : State) (a w : Word), Memory.wf s.mem = true → InStorage a → InStorage (a + 1) →
    (s.write16 a w).read16 a = w ∧ (s.write16 a w).read8 a = w.extractLsb 7 0 ∧
    (s.write16 a w).read8 (a + 1) = w.extractLsb 15 8

/-- A word access at 0xFFFF touches IE and then address 0x0000, which is ROM (R71; the wrap by D20, log 17). That the write of the high
byte changes nothing rests on R54 and R55 with the default BankSelect: 0x0000 is no bank select (D11, log 5). -/
def Obligations.WordAccessWrapsAtTheTop : Prop :=
  ∀ (s : State) (w : Word),
    s.read16 0xFFFF = BitVec.ofNat 16 ((s.read8 0x0000).toNat * 256 + s.ie.toNat) ∧
    s.write16 0xFFFF w = { s with ie := w.extractLsb 7 0 }

/-- The joypad's register packs the column nibble and the row nibble; a write sets the column nibble alone (R153, R154; D28, log 21).
Choices: a read with no column selected by D41, log 21; the joypad registered at 0xFF00 by D12, log 6. -/
def Obligations.JoypadRegister : Prop :=
  ∀ (s : State) (v : Byte),
    s.read8 0xFF00 = (s.joyCol &&& 0xF0) ||| (s.joyRow &&& 0x0F) ∧ s.write8 0xFF00 v = { s with joyCol := v &&& 0xF0 }

/-! ### Instructions: what each completes with -/

/-- NOP: `pc` advances by 1 and nothing else changes (R112). Choices: `pc` wraps by D20, log 17; F stays by D38, log 24. -/
def Obligations.NopAdvancesPc : Prop :=
  ∀ s : State, exec .nop s = .next { s with pc := s.pc + 1 }

/-- JR e, whole: bytes `18 ee` with the displacement read at `pc +16 1`, and `pc` set to `pc + 2 + sext_8(e)` modulo 65536 with nothing
else changed (R113; the spec's own D20 for the wrap, log 17). Choices: the fetch leaves the state, since no read is a draw under the
default PeriphSet, by D12, log 6; F stays by D38, log 24. -/
def Obligations.RelativeJump : Prop :=
  (∀ (e : Byte) (rest : List Byte), decode (0x18 :: e :: rest) = .ok (.jr e, rest)) ∧
  (∀ s : State, s.read8 s.pc = 0x18 → s.fetchInstr = (.jr (s.read8 (s.pc + 1)), s)) ∧
  (∀ (e : Byte) (s : State), exec (.jr e) s = .next { s with pc := BitVec.ofInt 16 (s.pc.toNat + 2 + e.toInt) })

/-- JR NZ,e and JR Z,e: the jump of JR where bit 7 of F is 0, or 1, and otherwise `pc` past the two bytes; nothing else changes (R114,
R115; Z is bit 7 by D5, log 13). Choices: targets and `pc` wrap by D20, log 17; F stays by D38, log 24. -/
def Obligations.ConditionalJumps : Prop :=
  ∀ (e : Byte) (s : State),
    exec (.jrNz e) s = .next { s with
      pc := if s.af.getLsbD 7 then s.pc + 2 else BitVec.ofInt 16 (s.pc.toNat + 2 + e.toInt) } ∧
    exec (.jrZ e) s = .next { s with
      pc := if s.af.getLsbD 7 then BitVec.ofInt 16 (s.pc.toNat + 2 + e.toInt) else s.pc + 2 }

/-- JP nn, whole: bytes `C3 lo hi` with the target read at `pc +16 1` and `pc +16 2`, low byte first, and `pc` set to it whatever it
was, with nothing else changed (R116; operand addresses wrap by D20, log 17). Choices: the fetch leaves the state, since no read is
a draw under the default PeriphSet, by D12, log 6; F stays by D38, log 24. -/
def Obligations.AbsoluteJump : Prop :=
  (∀ (lo hi : Byte) (rest : List Byte),
    decode (0xC3 :: lo :: hi :: rest) = .ok (.jp (BitVec.ofNat 16 (hi.toNat * 256 + lo.toNat)), rest)) ∧
  (∀ s : State, s.read8 s.pc = 0xC3 →
    s.fetchInstr = (.jp (BitVec.ofNat 16 ((s.read8 (s.pc + 2)).toNat * 256 + (s.read8 (s.pc + 1)).toNat)), s)) ∧
  (∀ (nn : Word) (s : State), exec (.jp nn) s = .next { s with pc := nn })

/-- CALL nn: `sp` goes down by 2, the address after the three bytes is written with its low byte at the new `sp` and its high byte above
it, and `pc` is the target; where the stack is storage, the word at the new `sp` reads as that address (R117; D2, D20, logs 12, 17;
a stack in the I/O window is storage by D12, log 6). Choices: an unchecked, wrapping `sp` by D40 and D20, logs 25, 17; two byte
writes by D31, log 23; regions of storage by D6 to D8 and D27, log 11; F stays by D38, log 24. -/
def Obligations.CallPushesTheReturnAddress : Prop :=
  (∀ (nn : Word) (s : State),
    exec (.call nn) s = .next { (({ s with sp := s.sp - 2 } : State).write8 (s.sp - 2) ((s.pc + 3).extractLsb 7 0)).write8 (s.sp - 1)
      ((s.pc + 3).extractLsb 15 8) with pc := nn }) ∧
  (∀ (nn : Word) (s : State), Memory.wf s.mem = true → InStorage (s.sp - 2) → InStorage (s.sp - 1) →
    ∃ t, exec (.call nn) s = .next t ∧ t.read16 t.sp = s.pc + 3 ∧ t.sp = s.sp - 2 ∧ t.pc = nn)

/-- LD A,n: A is the immediate; F and everything else but `pc` stay (R119). Choices: `pc` wraps by D20, log 17; F stays by D38, log 24. -/
def Obligations.LoadImmediate : Prop :=
  ∀ (n : Byte) (s : State),
    exec (.ldAN n) s = .next { s with af := (n.zeroExtend 16 <<< 8) ||| (s.af &&& 0x00FF), pc := s.pc + 2 }

/-- LD r,r', each of its 49 constructors `ldBB` to `ldAA`: the destination gets the source's byte, every other view stays, `pc` advances
by 1, and nothing but the register pairs and `pc` changes (R120). Choices: the operand set by D3, log 12; `pc` wraps by D20, log 17;
F stays by D38, log 24. -/
def Obligations.LoadRegister : Prop :=
  ∀ (i : Instr) (dst r : Reg8) (s : State), i.loadRegs = some (dst, r) →
    ∃ t, exec i s = .next t ∧ t.reg8 dst = s.reg8 r ∧ (∀ q, q ≠ dst → t.reg8 q = s.reg8 q) ∧
      t = { s with af := t.af, bc := t.bc, de := t.de, hl := t.hl, pc := s.pc + 1 }

/-- LDH (n),A: A is written to `0xFF00 + n` and `pc` advances by 2; in the I/O window and high RAM the byte reads back, `n = 0xFF`
writes IE and `n = 0` the joypad's column (R121; D2, log 12; joypad layout by D28, log 21; the read-back for `n` in 0x01..0x7F by
the default PeriphSet, D12, log 6). Choices: `pc` wraps by D20, log 17; F stays by D38, log 24. -/
def Obligations.HighPageStore : Prop :=
  (∀ (n : Byte) (s : State),
    exec (.ldhNA n) s = .next { s.write8 (0xFF00 + n.zeroExtend 16) (s.af.extractLsb 15 8) with pc := s.pc + 2 }) ∧
  (∀ (n : Byte) (s : State), Memory.wf s.mem = true → n ≠ 0x00 →
    ∃ t, exec (.ldhNA n) s = .next t ∧ t.read8 (0xFF00 + n.zeroExtend 16) = s.af.extractLsb 15 8) ∧
  (∀ s : State, exec (.ldhNA 0xFF) s = .next { s with ie := s.af.extractLsb 15 8, pc := s.pc + 2 }) ∧
  (∀ s : State, exec (.ldhNA 0x00) s = .next { s with joyCol := s.af.extractLsb 15 8 &&& 0xF0, pc := s.pc + 2 })

/-- LDH A,(n): A is the byte that a bus read of `0xFF00 + n` gives; F and everything else but `pc` stay (R122; D2, log 12; no read is a
draw under the default PeriphSet, D12, log 6). Choices: no other read has a side effect by D29, log 29; `pc` wraps by D20, log 17; F
stays by D38, log 24. -/
def Obligations.HighPageLoad : Prop :=
  ∀ (n : Byte) (s : State),
    exec (.ldhAN n) s = .next { s with
      af := ((s.read8 (0xFF00 + n.zeroExtend 16)).zeroExtend 16 <<< 8) ||| (s.af &&& 0x00FF), pc := s.pc + 2 }

/-- LD (nn),A: A is written to `nn` and `pc` advances by 3; a store to storage reads back, and one into the next instruction's opcode is
what the next fetch reads (R123, R81; D2, log 12; storage in the I/O window by D12, log 6). Choices: regions of storage by D6 to D8
and D27, log 11; no cache before the next fetch by D32, log 29; `pc` wraps by D20, log 17; F stays by D38, log 24. -/
def Obligations.AbsoluteStore : Prop :=
  (∀ (nn : Word) (s : State), exec (.ldNnA nn) s = .next { s.write8 nn (s.af.extractLsb 15 8) with pc := s.pc + 3 }) ∧
  (∀ (nn : Word) (s : State), Memory.wf s.mem = true → InStorage nn →
    ∃ t, exec (.ldNnA nn) s = .next t ∧ t.read8 nn = s.af.extractLsb 15 8 ∧
      (nn = s.pc + 3 → t.read8 t.pc = s.af.extractLsb 15 8))

/-- XOR r and XOR A, their seven constructors: A is the exclusive-or, F is 0x80 for a zero result and 0x00 for any other whatever it
was, `pc` advances by 1 and nothing else changes (R124, R125; D2, log 12). Choices: the operand set by D3, log 12; flag places by
D5, log 13; `pc` wraps by D20, log 17. -/
def Obligations.ExclusiveOr : Prop :=
  ∀ (i : Instr) (r : Reg8) (s : State), i.xorReg = some r →
    ∃ t, exec i s = .next t ∧ t.reg8 .a = s.reg8 .a ^^^ s.reg8 r ∧
      t.reg8 .f = (if s.reg8 .a = s.reg8 r then 0x80 else 0x00) ∧ t = { s with af := t.af, pc := s.pc + 1 }

/-- XOR A zeroes A and leaves F = 0x80, whatever both were (R125; D2, log 12). Choices: flag places by D5, log 13; `pc` wraps by D20,
log 17. -/
def Obligations.ExclusiveOrOfAccumulator : Prop :=
  ∀ s : State, exec .xorA s = .next { s with af := 0x0080, pc := s.pc + 1 }

/-- CP n: F is 0xC0 when A equals `n`, 0x60 when A is greater, 0x50 when A is less, unsigned; A and everything else but `pc` stay (R126;
D21, log 18). Choices: flag places by D5, log 13; `pc` wraps by D20, log 17. -/
def Obligations.CompareImmediate : Prop :=
  ∀ (n : Byte) (s : State),
    exec (.cp n) s = .next { s with
      af := (s.af &&& 0xFF00) |||
        (if (s.af.extractLsb 15 8).toNat = n.toNat then 0x00C0
         else if n.toNat < (s.af.extractLsb 15 8).toNat then 0x0060 else 0x0050),
      pc := s.pc + 2 }

/-- DI and EI alike arm the toggle and advance `pc` by 1; `ime` is not touched by the handler (R128, R129, R144). Choices: `pc` wraps by
D20, log 17; F stays by D38, log 24. -/
def Obligations.DiAndEiArmTheToggle : Prop :=
  ∀ s : State, exec .di s = .next { s with toggleArmed := true, pc := s.pc + 1 } ∧
    exec .ei s = .next { s with toggleArmed := true, pc := s.pc + 1 }

/-- An unbound byte and a prefixed pair raise the fault: `status` records table, key and `pc`, and nothing else changes, `pc` not
advanced (R104, R131; the next state that carries the record is the model's reading, D25, log 20). Choices: which bytes are unbound
by D1, log 12; one constructor for them by log 26. -/
def Obligations.UndefinedOpcodesRaiseTheFault : Prop :=
  ∀ (b : Byte) (s : State),
    exec (.undefinedOpcode b) s = .next { s with status := .faulted .primary b s.pc } ∧
    exec (.prefixCb b) s = .next { s with status := .faulted .secondary b s.pc }

/-! ### Instructions: frames over all of them -/

/-- LDH (n),A, LD (nn),A and CALL change no read but those their stores reach: the address stored to, its mirror in work RAM, the
switchable bank for a bank select (R51, R54, R59, R121, R123, R117). Choices: echo RAM by D7, log 11; bank selects by D11, log 5;
which I/O bytes are storage by D12, log 6; two byte writes by D31, log 23; an unchecked, wrapping `sp` by D40 and D20, logs 25, 17;
a store to 0xFF00 sets the column alone by D28, log 21. -/
def Obligations.StoresReachNoOtherByte : Prop :=
  (∀ (n : Byte) (s : State), ∃ t, exec (.ldhNA n) s = .next t ∧
    ∀ b, storeReaches (highPage n) b = false → t.read8 b = s.read8 b) ∧
  (∀ (nn : Word) (s : State), ∃ t, exec (.ldNnA nn) s = .next t ∧
    ∀ b, storeReaches nn b = false → t.read8 b = s.read8 b) ∧
  (∀ (nn : Word) (s : State), ∃ t, exec (.call nn) s = .next t ∧
    ∀ b, storeReaches (s.sp - 2) b = false → storeReaches (s.sp - 1) b = false → t.read8 b = s.read8 b)

/-- Every instruction but LDH (n),A, LD (nn),A and CALL leaves every byte of the address space, IE, the bank and the joypad's column as
they were (R74). Choices: that the read of LDH A,(n) changes no later read by the default PeriphSet, under which no read is a draw,
D12, log 6, and by D29, log 29. -/
def Obligations.OtherInstructionsStoreNothing : Prop :=
  ∀ (i : Instr) (s t : State), storesMemory i = false → exec i s = .next t →
    (∀ b, t.read8 b = s.read8 b) ∧ t.mem = s.mem ∧ t.ie = s.ie ∧ t.romBank = s.romBank ∧ t.joyCol = s.joyCol

/-- Only XOR and CP write F; every other instruction leaves it (R29; D38, log 24). -/
def Obligations.OnlyXorAndCpWriteFlags : Prop :=
  ∀ (i : Instr) (s t : State), writesFlags i = false → exec i s = .next t → t.reg8 .f = s.reg8 .f

/-- The registers that instructions write, over all of them: BC, DE and HL only by an LD r,r' into one of their views, A only by the
loads into A and XOR, SP only by CALL (R25). Choices: the bound set and the operands by D1 and D3, log 12. -/
def Obligations.RegistersWrittenOnlyByTheirWriters : Prop :=
  ∀ (i : Instr) (s t : State), exec i s = .next t →
    (t.sp ≠ s.sp → ∃ nn, i = .call nn) ∧
    (∀ r : Reg8, r ≠ .a → r ≠ .f → t.reg8 r ≠ s.reg8 r → ∃ src, i.loadRegs = some (r, src)) ∧
    (t.reg8 .a ≠ s.reg8 .a → (∃ src, i.loadRegs = some (.a, src)) ∨ (∃ r, i.xorReg = some r) ∨ (∃ n, i = .ldAN n) ∨ ∃ n, i = .ldhAN n)

/-- No handler touches `ime`, `cycles`, `halt_stop`, the joypad's row, the image or the environment's turns; only DI and EI touch the
toggle latch, and only an undefined opcode touches `status` (R18, R35, R36, R43 to R45, R106, R144). Choices: `env` and `draws` are
the model's own fields, the environment's turns (log 8) and the count of peripheral draws (log 6), and `draws` stays after LDH A,(n)
by the default PeriphSet, D12, log 6; the image as fields of State by log 1; `halt_stop` by D33, log 22; `status` as the record of
the fault by D25, log 20; the joypad's row stays also after a store to 0xFF00 (R154) by D28, log 21, conflict C3. -/
def Obligations.HandlersLeaveControlState : Prop :=
  ∀ (i : Instr) (s t : State), exec i s = .next t →
    t.ime = s.ime ∧ t.cycles = s.cycles ∧ t.haltStop = s.haltStop ∧ t.joyRow = s.joyRow ∧ t.rom = s.rom ∧ t.romLen = s.romLen ∧
    t.env = s.env ∧ t.draws = s.draws ∧ (t.toggleArmed ≠ s.toggleArmed → i = .di ∨ i = .ei) ∧
    (t.status ≠ s.status → (∃ b, i = .undefinedOpcode b) ∨ ∃ b, i = .prefixCb b)

/-- An instruction that does not assign `pc` advances it by its own length (R32, R84; lengths of the bytes of D2 to D4, log 12).
Choices: `pc` wraps by D20, log 17. -/
def Obligations.SequentialInstructionsAdvanceByTheirLength : Prop :=
  ∀ (i : Instr) (s t : State), assignsPc i = false → exec i s = .next t → t.pc = s.pc + BitVec.ofNat 16 (encode i).length

/-! ### Interrupts and the toggle -/

/-- The poll does nothing when `ime` is false or no source is pending and enabled, and services a source when `ime` is true and one is:
`ime` is then clear, `pc` a vector, `sp` down by 2 and 20 cycles added (R138, R140, R142, R143; bits 5..7 are masked by D17, log
14). Choices: IF at 0xFF0F, its bits and the vectors by D14 to D16, log 14; that a bus read of 0xFF0F is IF by the default
PeriphSet, D12, log 6; an unchecked, wrapping `sp` by D40 and D20, logs 25, 17. -/
def Obligations.PollServicesExactlyWhenEnabledAndPending : Prop :=
  ∀ s : State,
    ((s.ime = false ∨ s.ie &&& s.read8 0xFF0F &&& 0x1F = 0) → s.pollAndDispatch = s) ∧
    (s.ime = true → s.ie &&& s.read8 0xFF0F &&& 0x1F ≠ 0 →
      s.pollAndDispatch.ime = false ∧ (∃ k, k < 5 ∧ s.pollAndDispatch.pc = BitVec.ofNat 16 (0x40 + 8 * k)) ∧
      s.pollAndDispatch.sp = s.sp - 2 ∧ s.pollAndDispatch.cycles = s.cycles + 20)

/-- The source serviced is the lowest bit of `IE & IF & 0x1F`, and its service is R142's: its IF bit cleared, `ime` cleared, `sp` down
by 2, `pc` pushed low byte then high byte, `pc` at `0x0040 + 8k`, 20 cycles (R136, R141 to R143; D15 to D17, log 14). Choices: IF at
0xFF0F by D14, log 14; two byte writes by D31, log 23; an unchecked, wrapping `sp` by D40 and D20, logs 25, 17. -/
def Obligations.LowestPendingSourceIsServiced : Prop :=
  ∀ (s : State) (k : Nat), k < 5 → s.ime = true → (s.ie &&& s.ifReg).getLsbD k = true →
    (∀ j, j < k → (s.ie &&& s.ifReg).getLsbD j = false) →
    s.pollAndDispatch =
      let s1 := { s with mem := Memory.write s.mem 0xFF0F (s.ifReg &&& ~~~(1#8 <<< k)), ime := false, sp := s.sp - 2 }
      let s2 := (s1.write8 (s.sp - 2) (s.pc.extractLsb 7 0)).write8 (s.sp - 1) (s.pc.extractLsb 15 8)
      { s2 with pc := BitVec.ofNat 16 (0x40 + 8 * k), cycles := s.cycles + 20 }

/-- Service saves `pc` alone on the stack and leaves A, F, the other registers and the toggle latch; where the stack is storage apart
from IF, the saved word reads back and exactly the serviced bit of IF is cleared (R142, R148; D15, D17, log 14; a stack in the I/O
window is storage by D12, log 6). Choices: IF at 0xFF0F by D14, log 14; regions of storage by D6 to D8 and D27, log 11; two byte
writes by D31, log 23; an unchecked, wrapping `sp` by D40 and D20, logs 25, 17; F stays by D38, log 24. -/
def Obligations.ServiceSavesPcAndClearsOneBit : Prop :=
  ∀ (s : State) (k : Nat), Memory.wf s.mem = true → k < 5 → s.ime = true → (s.ie &&& s.ifReg).getLsbD k = true →
    (∀ j, j < k → (s.ie &&& s.ifReg).getLsbD j = false) →
    InStorage (s.sp - 2) → InStorage (s.sp - 1) → s.sp - 2 ≠ 0xFF0F → s.sp - 1 ≠ 0xFF0F →
    let t := s.pollAndDispatch
    t.read16 t.sp = s.pc ∧ (∀ j, j < 8 → t.ifReg.getLsbD j = (s.ifReg.getLsbD j && decide (j ≠ k))) ∧
    t.af = s.af ∧ t.bc = s.bc ∧ t.de = s.de ∧ t.hl = s.hl ∧ t.ie = s.ie ∧ t.toggleArmed = s.toggleArmed ∧ t.status = s.status

/-- One poll services at most one interrupt (R100, R141, R142, R147): either it changes nothing, or there is one source `k`, the only
bit of IF it clears, and `sp` is down by 2, once, with 20 cycles, once, and `ime` clear, `pc` at that source's vector; and a second
poll would do nothing. The bit is read where the push does not itself write IF (canonical memory as `StepKeepsTheInvariant` keeps
it; bits and vectors by D15 to D17, log 14). Choices: IF at 0xFF0F by D14, log 14; two byte writes by D31, log 23; an unchecked,
wrapping `sp` by D40 and D20, logs 25, 17. -/
def Obligations.PollServicesAtMostOne : Prop :=
  ∀ s : State, let t := s.pollAndDispatch
    (t = s ∨ ∃ k, k < 5 ∧ s.ime = true ∧ (s.ie &&& s.ifReg).getLsbD k = true ∧
      t.sp = s.sp - 2 ∧ t.cycles = s.cycles + 20 ∧ t.ime = false ∧ t.pc = BitVec.ofNat 16 (0x40 + 8 * k) ∧
      (Memory.wf s.mem = true → s.sp - 2 ≠ 0xFF0F → s.sp - 1 ≠ 0xFF0F →
        ∀ j, j < 8 → t.ifReg.getLsbD j = (s.ifReg.getLsbD j && decide (j ≠ k)))) ∧
    t.pollAndDispatch = t

/-- DI and EI as whole steps: the poll and the handler see the old `ime`; at the end of the step `ime` is flipped once, the latch is
clear, `pc` is past the byte, its cost is accounted and no other register is changed (R98, R108, R128, R129, R145; the next poll
sees the flip by D19, log 16). Choices: the bytes 0xF3 and 0xFB by D2, log 12; the environment's turn at the start of a step by log
8; the instruction at the vector runs in the step of the service by D18, log 15; the fetch leaves the state, since no read is a draw
under the default PeriphSet, by D12, log 6; the cost is the open BaseCost by D24, log 2; `pc` wraps by D20, log 17; F stays by D38,
log 24. -/
def Obligations.ToggleFlipsOnceAtTheEndOfItsStep : Prop :=
  ∀ s : State, s.status = .running → s.fetchedOpcode = 0xF3 ∨ s.fetchedOpcode = 0xFB →
    step s = .next { s.atFetch with
      pc := s.atFetch.pc + 1, ime := !s.atFetch.ime, toggleArmed := false,
      cycles := s.atFetch.cycles + Config.baseCost .primary s.fetchedOpcode }

/-- Any two of DI and EI in succession leave `ime` as it was, when no interrupt is serviced between them (R146; the next poll sees the
flip by D19, log 16; the bytes 0xF3 and 0xFB by D2, log 12; the mask 0x1F by D17, log 14). Choices: `env`, empty here, by log 8; the
fetch leaves the state, since no read is a draw under the default PeriphSet, by D12, log 6; `pc` wraps by D20, log 17; F stays by
D38, log 24. -/
def Obligations.TwoTogglesCancel : Prop :=
  ∀ s : State, s.status = .running → s.env = [] → s.ie &&& s.ifReg &&& 0x1F = 0 →
    s.read8 s.pc = 0xF3 ∨ s.read8 s.pc = 0xFB → s.read8 (s.pc + 1) = 0xF3 ∨ s.read8 (s.pc + 1) = 0xFB →
    ∃ t u, step s = .next t ∧ step t = .next u ∧ t.ime = (!s.ime) ∧ u.ime = s.ime ∧ u.pc = s.pc + 2 ∧ u.af = s.af

/-- Between two steps `ime` differs only because the poll serviced an interrupt or the step ran a DI or an EI (R35, R138; the bytes 0xF3
and 0xFB by D2, log 12; the mask of the pending sources by D17, log 14). Choices: the environment's turn at the start of a step by
log 8; the instruction at the vector runs in the step of the service by D18, log 15; the flip comes in the very step that armed it
(R36, R145) by D19, log 16. -/
def Obligations.MasterEnableChangesOnlyByServiceOrToggle : Prop :=
  ∀ s t : State, s.toggleArmed = false → step s = .next t → t.ime ≠ s.ime →
    (s.ime = true ∧ s.envTurn.pending ≠ 0) ∨ s.fetchedOpcode = 0xF3 ∨ s.fetchedOpcode = 0xFB

/-! ### The step -/

/-- A step of a running machine runs the instruction that the bytes at the fetch address decode to, with the poll before it and stages 6
and 7 after it (R98). Choices: the environment's turn at the start of a step is the model's own (log 8), since R98 has none; that
the instruction at the vector runs in the step of its service is the spec's D18 (log 15); the fetch leaves the state, since no read
is a draw under the default PeriphSet, by D12, log 6; operand bytes are read before the handler runs by D37, log 23; the toggle is
applied at stage 7 of its own step by D19, log 16. -/
def Obligations.StepRunsTheDecodedInstruction : Prop :=
  ∀ (s : State) (i : Instr) (rest : List Byte), s.status = .running →
    decode [s.atFetch.read8 s.atFetch.pc, s.atFetch.read8 (s.atFetch.pc + 1), s.atFetch.read8 (s.atFetch.pc + 2)] = .ok (i, rest) →
    step s = match exec i s.atFetch with
      | .next t => .next (t.finishStep i)
      | .fault r => .fault r
      | .refused r => .refused r

/-- A running machine's step always gives a next state, and a step stops only on a recorded fault: no access, no handler and no opcode
ends it otherwise (R49, R105, R135, R110; a faulting step is a next state and a faulted machine's step the model's fault, log 20).
Choices: the environment's turn at the start of a step by log 8. -/
def Obligations.RunningMachineAlwaysSteps : Prop :=
  (∀ s : State, s.status = .running → ∃ t, step s = .next t) ∧
  (∀ (s : State) (r : Refusal), step s ≠ .refused r) ∧
  (∀ (s : State) (table : Table) (key : Byte) (addr : Word),
    step s = .fault (.undefinedOpcode table key addr) ↔ s.status = .faulted table key addr)

/-- Every bound instruction's step adds its entry's base cost to what the poll left in `cycles`, whatever the handler did and whatever
its operands and the flags were: JR NZ,e and JR Z,e add the same whether or not they jump (R98, R106, R107). Choices: the cost is the open
BaseCost by D24, log 2; the environment's turn at the start of a step by log 8 and so before the poll; which bytes are bound, and
the prefix, by D1 and D2, log 12; that the entry of the instruction at the vector is added on top of the 20 of a service, in the
same step, by D18, log 15. -/
def Obligations.CostIsTheEntrysWhateverTheOutcome : Prop :=
  ∀ s : State, s.status = .running → boundByte s.fetchedOpcode = true → s.fetchedOpcode ≠ 0xCB →
    ∃ t, step s = .next t ∧ t.status = .running ∧
      t.cycles = s.atFetch.cycles + Config.baseCost .primary s.fetchedOpcode

/-- A step that fetches an unbound byte, or the prefix and any key, ends the run: `status` is Faulted with the table, the key and the
fetch address; stages 6 and 7 do not run and everything else is as after the poll (R104, R131, R147; D1, D25, logs 12, 20). Choices:
the byte of the prefix by D2, log 12; the environment's turn at the start of a step by log 8; the instruction at the vector runs in
the step of the service by D18, log 15; the fetch leaves the state, since no read is a draw under the default PeriphSet, by D12, log
6. -/
def Obligations.FaultingStepKeepsThePolledState : Prop :=
  ∀ s : State, s.status = .running →
    (boundByte s.fetchedOpcode = false →
      step s = .next { s.atFetch with status := .faulted .primary s.fetchedOpcode s.atFetch.pc }) ∧
    (s.fetchedOpcode = 0xCB →
      step s = .next { s.atFetch with status := .faulted .secondary (s.atFetch.read8 (s.atFetch.pc + 1)) s.atFetch.pc })

/-- A faulted machine has no step: the CPU agent never moves again (R110). -/
def Obligations.FaultedMachineHasNoStep : Prop :=
  ∀ (s t : State) (table : Table) (key : Byte) (addr : Word), s.status = .faulted table key addr → step s ≠ .next t

/-! ### Invariants -/

/-- Every step keeps the invariant, from every state that meets it: memory canonical over storage addresses, F's low nibble 0, the
toggle latch clear between steps, the joypad's reserved bits clear, the environment's turn included (R28, R36, R39, R42; one list of
cells by log 10, joypad layout by D28, log 21, the turn inside the step by log 8). Choices: the environment writes storage of the
I/O window alone by D13, log 7; the toggle latch is clear between steps since the flip comes at the end of the arming step, by D19,
log 16. -/
def Obligations.StepKeepsTheInvariant : Prop :=
  ∀ s t : State, s.Inv → step s = .next t → t.Inv

/-- The reset state of every variant meets the invariant (R163 to R166). Choices: memory 0x00 by D22, log 9; the toggle latch clear and
the joypad bytes 0x00 and 0x0F by D22 and D28, log 19; memory as one list by log 10; the open system variant by D34, log 3. -/
def Obligations.ResetMeetsTheInvariant : Prop :=
  (∀ (v : SystemVariant) (b : Bool), (State.resetFor v b).Inv) ∧ State.reset.Inv

/-- F's low nibble is 0 in every reachable state: reset writes 0xB0, every step keeps it, and a handler that changes F writes one of
`flags(z, n, h, c)` (R28). -/
def Obligations.FlagLowNibbleStaysZero : Prop :=
  (∀ (v : SystemVariant) (b : Bool), (State.resetFor v b).reg8 .f = 0xB0) ∧
  (∀ s t : State, s.reg8 .f &&& 0x0F = 0 → step s = .next t → t.reg8 .f &&& 0x0F = 0) ∧
  (∀ (i : Instr) (s t : State), exec i s = .next t → t.reg8 .f ≠ s.reg8 .f → ∃ z n h c, t.reg8 .f = flags z n h c) ∧
  (∀ z n h c, flags z n h c &&& 0x0F = 0)

/-- No step changes the ROM image or its length (R18, R54, R169). Choices: the image as fields of State by log 1; the environment's turn
at the start of a step by log 8. -/
def Obligations.StepKeepsTheImage : Prop :=
  ∀ s t : State, step s = .next t → t.rom = s.rom ∧ t.romLen = s.romLen

/-- The active bank stays in 1..31, from reset's 1 on (R41, R55; the spec's default D11, log 5). Choices: the environment's turn at the
start of a step by log 8. -/
def Obligations.BankStaysInRange : Prop :=
  (∀ (v : SystemVariant) (b : Bool), (State.resetFor v b).BankInRange) ∧
  (∀ s t : State, s.BankInRange → step s = .next t → t.BankInRange)

/-! ### The environment -/

/-- `signal_interrupt(source)` sets the source's bit of IF: V-blank 0x01, LCD-STAT 0x02, Timer 0x04, Serial 0x08, Joypad 0x10; it is
idempotent, and changes no other byte and no other field (R136, R137; IF's place by D14 and its bits by D15, log 14). -/
def Obligations.SignalInterruptSetsOneBit : Prop :=
  ∀ s : State, Memory.wf s.mem = true →
    ((s.signalInterrupt .vblank).ifReg = s.ifReg ||| 0x01 ∧ (s.signalInterrupt .lcdStat).ifReg = s.ifReg ||| 0x02 ∧
      (s.signalInterrupt .timer).ifReg = s.ifReg ||| 0x04 ∧ (s.signalInterrupt .serial).ifReg = s.ifReg ||| 0x08 ∧
      (s.signalInterrupt .joypad).ifReg = s.ifReg ||| 0x10) ∧
    ∀ src : Source,
      (s.signalInterrupt src).ifReg = s.ifReg ||| (1#8 <<< src.index) ∧
      (s.signalInterrupt src).signalInterrupt src = s.signalInterrupt src ∧
      (∀ b, b ≠ 0xFF0F → (s.signalInterrupt src).read8 b = s.read8 b) ∧
      s.signalInterrupt src = { s with mem := (s.signalInterrupt src).mem }

/-- A solicited press clears the matching row bits and nothing else: no interrupt, `halt_stop` unchanged; a press of a key already
pressed changes nothing (R156; which bits of a key are column and row, and what solicits, by D28, log 21). -/
def Obligations.JoypadPress : Prop :=
  (∀ (s : State) (key : Byte), key &&& 0xF0 &&& s.joyCol ≠ 0 →
    s.joypadSignal key true = { s with joyRow := s.joyRow &&& ~~~(key &&& 0x0F) &&& 0x0F }) ∧
  (∀ (s : State) (key : Byte), s.joyRow &&& 0xF0 = 0 → s.joyRow &&& (key &&& 0x0F) = 0 → s.joypadSignal key true = s)

/-- A solicited release sets the row bits, sets IF bit 4 and clears `halt_stop`, also for a key that was not pressed (R157; D39, log
21). Choices: which bits of a key are column and row, and what solicits, by D28, log 21; IF and bit 4 by D14 and D15, log 14;
`halt_stop` by D33, log 22. -/
def Obligations.JoypadRelease : Prop :=
  ∀ (s : State) (key : Byte), Memory.wf s.mem = true → key &&& 0xF0 &&& s.joyCol ≠ 0 →
    let t := s.joypadSignal key false
    t.joyRow = (s.joyRow ||| (key &&& 0x0F)) &&& 0x0F ∧ t.ifReg = s.ifReg ||| 0x10 ∧ t.haltStop = false ∧
    (∀ b, b ≠ 0xFF00 → b ≠ 0xFF0F → t.read8 b = s.read8 b) ∧
    t = { s with joyRow := t.joyRow, mem := t.mem, haltStop := false }

/-- An unsolicited event, press or release, changes no state (R158; what solicits by D28, log 21). -/
def Obligations.UnsolicitedEventIsDropped : Prop :=
  ∀ (s : State) (key : Byte) (pressed : Bool), key &&& 0xF0 &&& s.joyCol = 0 → s.joypadSignal key pressed = s

/-- The environment has each of its effects and no other (R151). A write of `v` to an address of 0xFF01..0xFF7F makes that byte `v` and
changes nothing else, and one outside the window does nothing; setting `halt_stop` sets it alone; observing changes nothing; signals
and key events are those of R137 and R155. A step performs the turn at the head of `env`, every action of it in order, as if its
actions had been taken before the step, and drops it; an empty turn is as none. However many actions, nothing changes but the I/O
window's storage, the joypad's row and `halt_stop`. Choices: EnvWritable by D13, log 7; that a byte of the window reads back by the
default PeriphSet, D12, log 6; the turns in `env` are the model's own, log 8; `halt_stop` by D33, log 22; key events change the row
alone, and IF and `halt_stop` on release, by D28 and D39, log 21. -/
def Obligations.EnvironmentStaysInItsWindow : Prop :=
  (∀ (s : State) (a : Word) (v : Byte), 0xFF01 ≤ a.toNat → a.toNat ≤ 0xFF7F → Memory.wf s.mem = true →
    (s.envAct (.writeIo a v)).read8 a = v ∧ (∀ b, b ≠ a → (s.envAct (.writeIo a v)).read8 b = s.read8 b) ∧
    s.envAct (.writeIo a v) = { s with mem := (s.envAct (.writeIo a v)).mem }) ∧
  (∀ (s : State) (a : Word) (v : Byte), a.toNat < 0xFF01 ∨ 0xFF7F < a.toNat → s.envAct (.writeIo a v) = s) ∧
  (∀ s : State, s.envAct .setHaltStop = { s with haltStop := true } ∧ s.envAct .observe = s ∧
    (∀ src, s.envAct (.signalInterrupt src) = s.signalInterrupt src) ∧
    ∀ key pressed, s.envAct (.joypadSignal key pressed) = s.joypadSignal key pressed) ∧
  (∀ s : State, s.envActs [] = s ∧ ∀ act acts, s.envActs (act :: acts) = (s.envAct act).envActs acts) ∧
  (∀ (s : State) (acts : List EnvAction) (rest : List (List EnvAction)), s.status = .running → s.env = acts :: rest →
    step s = step (({ s with env := [] :: rest } : State).envActs acts)) ∧
  (∀ s : State, s.status = .running → s.env = [[]] → step s = step { s with env := [] }) ∧
  (∀ s t : State, step s = .next t → t.env = s.env.tail) ∧
  (∀ (s : State) (acts : List EnvAction),
    s.envActs acts = { s with mem := (s.envActs acts).mem, joyRow := (s.envActs acts).joyRow, haltStop := (s.envActs acts).haltStop } ∧
    (∀ b : Word, b.toNat < 0xFF00 ∨ 0xFF7F < b.toNat → (s.envActs acts).read8 b = s.read8 b))

/-! ### Reset -/

/-- The registers after reset, by variant: PC, F, BC, DE, HL and SP as R163 gives them and A as R164 seeds it; the flags of 0xB0
read Z = 1, N = 0, H = 1, C = 1 (R163, R164; flag places by D5, log 13; the variant a parameter by D34, log 3). -/
def Obligations.ResetRegisters : Prop :=
  (∀ b : Bool, (State.resetFor .dmg b).reg8 .a = 0x01 ∧ (State.resetFor .sgb b).reg8 .a = 0x01 ∧
    (State.resetFor .cgb b).reg8 .a = 0x11 ∧ (State.resetFor .mgb b).reg8 .a = 0xFF) ∧
  (∀ (v : SystemVariant) (b : Bool), let s := State.resetFor v b
    s.reg8 .f = 0xB0 ∧ s.bc = 0x0013 ∧ s.de = 0x00D8 ∧ s.hl = 0x014D ∧ s.sp = 0xFFFE ∧ s.pc = 0x0100 ∧
    s.flagZ = true ∧ s.flagN = false ∧ s.flagH = true ∧ s.flagC = true) ∧
  State.reset = State.resetFor Config.systemVariant Config.resetIME

/-- The rest of reset, which the source does not give and the spec decides (R165, R166; D11, D22, D23, D28, logs 4, 5, 9, 19; which I/O
bytes are storage by D12, log 6): every storage byte, IF and IE 0x00, `ime` false, no toggle armed, bank 1, no key pressed, no
column selected, 0 cycles, running. Choices: regions of storage by D6 to D8 and D27, log 11; IF at 0xFF0F by D14, log 14. -/
def Obligations.ResetOfTheRest : Prop :=
  (∀ a : Word, InStorage a → State.reset.read8 a = 0x00) ∧ State.reset.ie = 0x00 ∧ State.reset.ifReg = 0x00 ∧
  State.reset.ime = false ∧ State.reset.toggleArmed = false ∧ State.reset.romBank = 1 ∧ State.reset.joyCol = 0x00 ∧
  State.reset.joyRow = 0x0F ∧ State.reset.cycles = 0 ∧ State.reset.haltStop = false ∧ State.reset.status = .running
end

