-- ==== Sys2Proof/Laws/Bits.lean ====
section
/-! SUPPORT. Bytes of words and words of bytes. -/

namespace Sys2Proof.Machine

/-- The bits of a word built of two bytes. -/
theorem getLsbD_mkWord (hi lo : Byte) (i : Nat) :
    (mkWord hi lo).getLsbD i = if i < 8 then lo.getLsbD i else hi.getLsbD (i - 8) :=
  BitVec.getLsbD_append (x := hi) (y := lo)

@[simp] theorem hiByte_mkWord (hi lo : Byte) : hiByte (mkWord hi lo) = hi := by
  apply BitVec.eq_of_getLsbD_eq
  intro i h
  simp [hiByte, getLsbD_mkWord, h]

@[simp] theorem loByte_mkWord (hi lo : Byte) : loByte (mkWord hi lo) = lo := by
  apply BitVec.eq_of_getLsbD_eq
  intro i h
  simp [loByte, getLsbD_mkWord, h]

@[simp] theorem mkWord_bytes (w : Word) : mkWord (hiByte w) (loByte w) = w := by
  apply BitVec.eq_of_getLsbD_eq
  intro i h
  rw [getLsbD_mkWord]
  split
  · next h' => simp [loByte, h']
  · next h' =>
    have h8 : i - 8 < 8 := by omega
    have hi : 8 + (i - 8) = i := by omega
    simp [hiByte, h8, hi]

/-- Two words with the same bytes are the same word. -/
theorem word_ext {v w : Word} (hh : hiByte v = hiByte w) (hl : loByte v = loByte w) : v = w := by
  rw [← mkWord_bytes v, ← mkWord_bytes w, hh, hl]

end Sys2Proof.Machine
end

