-- ==== Sys2Proof/Laws/Memory.lean ====
section
/-! SUPPORT. Memory as cells: a read after a write, and the canonical form that every write keeps. -/

namespace Sys2Proof.Machine

@[simp] theorem Memory.read_nil (k : Nat) : Memory.read [] k = unlistedByte := rfl

theorem Memory.read_consCell_ne {k j : Nat} (h : j ≠ k) (v : Byte) (m : Memory) :
    Memory.read (Memory.consCell k v m) j = Memory.read m j := by
  unfold Memory.consCell
  split <;> simp [Memory.read, h]

/-- A write leaves every other key's byte alone, whatever the form of the list. -/
theorem Memory.read_write_ne {k j : Nat} (h : j ≠ k) (v : Byte) (m : Memory) :
    Memory.read (Memory.write m k v) j = Memory.read m j := by
  induction m with
  | nil => exact Memory.read_consCell_ne h v []
  | cons c m ih =>
    unfold Memory.write
    split
    · exact Memory.read_consCell_ne h v (c :: m)
    · split
      · subst_vars
        rw [Memory.read_consCell_ne h]
        simp [Memory.read, h]
      · simp [Memory.read, ih]

/-- Below the least key of a canonical list nothing is listed. -/
theorem Memory.read_below {m : Memory} {lo k : Nat} (h : Memory.wfFrom lo m = true) (hk : k < lo) :
    Memory.read m k = unlistedByte := by
  induction m generalizing lo with
  | nil => rfl
  | cons c m ih =>
    simp only [Memory.wfFrom, Bool.and_eq_true, decide_eq_true_eq] at h
    have hne : k ≠ c.1 := by omega
    simp [Memory.read, hne, ih h.2 (by omega)]

theorem Memory.wfFrom_mono {m : Memory} {lo lo' : Nat} (h : Memory.wfFrom lo m = true) (hle : lo' ≤ lo) :
    Memory.wfFrom lo' m = true := by
  cases m with
  | nil => rfl
  | cons c m =>
    simp only [Memory.wfFrom, Bool.and_eq_true, decide_eq_true_eq] at h ⊢
    exact ⟨⟨by omega, h.1.2⟩, h.2⟩

theorem Memory.wfFrom_consCell {m : Memory} {lo k : Nat} (v : Byte) (h : Memory.wfFrom (k + 1) m = true) (hk : lo ≤ k) :
    Memory.wfFrom lo (Memory.consCell k v m) = true := by
  unfold Memory.consCell
  split
  · exact Memory.wfFrom_mono h (by omega)
  · rename_i hv
    simp [Memory.wfFrom, hk, hv, h]

theorem Memory.wfFrom_write {m : Memory} {lo : Nat} (k : Nat) (v : Byte) (h : Memory.wfFrom lo m = true) (hk : lo ≤ k) :
    Memory.wfFrom lo (Memory.write m k v) = true := by
  induction m generalizing lo with
  | nil => exact Memory.wfFrom_consCell v rfl hk
  | cons c m ih =>
    have hc := h
    simp only [Memory.wfFrom, Bool.and_eq_true, decide_eq_true_eq] at hc
    unfold Memory.write
    split
    · refine Memory.wfFrom_consCell v ?_ hk
      simp only [Memory.wfFrom, Bool.and_eq_true, decide_eq_true_eq]
      exact ⟨⟨by omega, hc.1.2⟩, hc.2⟩
    · split
      · subst_vars
        exact Memory.wfFrom_consCell v hc.2 hk
      · simp only [Memory.wfFrom, Bool.and_eq_true, decide_eq_true_eq]
        exact ⟨hc.1, ih hc.2 (by omega)⟩

/-- A write keeps the canonical form. -/
theorem Memory.wf_write {m : Memory} (k : Nat) (v : Byte) (h : Memory.wf m = true) : Memory.wf (Memory.write m k v) = true :=
  Memory.wfFrom_write k v h (Nat.zero_le k)

theorem Memory.read_consCell_eq {m : Memory} {k : Nat} (v : Byte) (h : Memory.wfFrom (k + 1) m = true) :
    Memory.read (Memory.consCell k v m) k = v := by
  unfold Memory.consCell
  split
  · rename_i hv
    rw [hv]
    exact Memory.read_below h (by omega)
  · simp [Memory.read]

theorem Memory.read_write_eq_from {m : Memory} {lo : Nat} (k : Nat) (v : Byte) (h : Memory.wfFrom lo m = true) :
    Memory.read (Memory.write m k v) k = v := by
  induction m generalizing lo with
  | nil => exact Memory.read_consCell_eq v rfl
  | cons c m ih =>
    simp only [Memory.wfFrom, Bool.and_eq_true, decide_eq_true_eq] at h
    unfold Memory.write
    split
    · refine Memory.read_consCell_eq v ?_
      simp only [Memory.wfFrom, Bool.and_eq_true, decide_eq_true_eq]
      exact ⟨⟨by omega, h.1.2⟩, h.2⟩
    · split
      · subst_vars
        exact Memory.read_consCell_eq v h.2
      · rename_i hne
        simp [Memory.read, hne, ih h.2]

/-- Below the least key of a canonical list a write puts its cell in front. -/
theorem Memory.write_below {m : Memory} {lo k : Nat} (v : Byte) (h : Memory.wfFrom lo m = true) (hk : k < lo) :
    Memory.write m k v = Memory.consCell k v m := by
  cases m with
  | nil => rfl
  | cons c m =>
    simp only [Memory.wfFrom, Bool.and_eq_true, decide_eq_true_eq] at h
    simp [Memory.write, show k < c.1 by omega]

theorem Memory.write_consCell {m : Memory} {k : Nat} (v : Byte) (h : Memory.wfFrom (k + 1) m = true) :
    Memory.write (Memory.consCell k v m) k v = Memory.consCell k v m := by
  by_cases hv : v = unlistedByte
  · simp only [Memory.consCell, if_pos hv]
    simpa only [Memory.consCell, if_pos hv] using Memory.write_below v h (Nat.lt_succ_self k)
  · simp [Memory.consCell, hv, Memory.write]

theorem Memory.write_write_from {m : Memory} {lo : Nat} (k : Nat) (v : Byte) (h : Memory.wfFrom lo m = true) :
    Memory.write (Memory.write m k v) k v = Memory.write m k v := by
  induction m generalizing lo with
  | nil => exact Memory.write_consCell v rfl
  | cons c m ih =>
    simp only [Memory.wfFrom, Bool.and_eq_true, decide_eq_true_eq] at h
    rcases Nat.lt_trichotomy k c.1 with hlt | rfl | hgt
    · simp only [Memory.write, if_pos hlt]
      refine Memory.write_consCell v ?_
      simp only [Memory.wfFrom, Bool.and_eq_true, decide_eq_true_eq]
      exact ⟨⟨by omega, h.1.2⟩, h.2⟩
    · simp only [Memory.write, if_neg (Nat.lt_irrefl _), if_true]
      exact Memory.write_consCell v h.2
    · simp [Memory.write, show ¬ k < c.1 by omega, show k ≠ c.1 by omega, ih h.2]

/-- Writing a byte twice to a canonical memory is writing it once, as lists. -/
theorem Memory.write_write {m : Memory} (k : Nat) (v : Byte) (h : Memory.wf m = true) :
    Memory.write (Memory.write m k v) k v = Memory.write m k v :=
  Memory.write_write_from k v h

/-- A byte written to a canonical memory reads back. -/
theorem Memory.read_write_eq {m : Memory} (k : Nat) (v : Byte) (h : Memory.wf m = true) :
    Memory.read (Memory.write m k v) k = v :=
  Memory.read_write_eq_from k v h

/-- A write lists no key but its own and those listed before. -/
theorem Memory.mem_write {m : Memory} {k : Nat} {v : Byte} {c : Host.Cell} (h : c ∈ Memory.write m k v) :
    c.1 = k ∨ c ∈ m := by
  have hcell : ∀ m' : Memory, c ∈ Memory.consCell k v m' → c.1 = k ∨ c ∈ m' := by
    intro m' hm
    unfold Memory.consCell at hm
    split at hm
    · exact .inr hm
    · rcases List.mem_cons.mp hm with rfl | hm
      · exact .inl rfl
      · exact .inr hm
  induction m with
  | nil => exact hcell [] h
  | cons d m ih =>
    unfold Memory.write at h
    split at h
    · exact hcell _ h
    · split at h
      · exact (hcell _ h).imp_right (List.mem_cons_of_mem d)
      · rcases List.mem_cons.mp h with rfl | h
        · exact .inr (List.mem_cons_self ..)
        · exact (ih h).imp_right (List.mem_cons_of_mem d)

end Sys2Proof.Machine
end

