-- ==== Sys2Proof/Laws/State.lean ====
section
/-! SUPPORT. One lemma per field per update that leaves it alone, and one for what each update writes. -/

namespace Sys2Proof.Machine

/-! ### Register views -/

theorem setReg8_frame (s : State) (r : Reg8) (v : Byte) :
    s.setReg8 r v = { s with af := (s.setReg8 r v).af, bc := (s.setReg8 r v).bc, de := (s.setReg8 r v).de, hl := (s.setReg8 r v).hl } := by
  cases r <;> rfl
@[simp] theorem setReg8_sp (s : State) (r : Reg8) (v : Byte) : (s.setReg8 r v).sp = s.sp := by cases r <;> rfl
@[simp] theorem setReg8_pc (s : State) (r : Reg8) (v : Byte) : (s.setReg8 r v).pc = s.pc := by cases r <;> rfl
@[simp] theorem setReg8_ime (s : State) (r : Reg8) (v : Byte) : (s.setReg8 r v).ime = s.ime := by cases r <;> rfl
@[simp] theorem setReg8_toggleArmed (s : State) (r : Reg8) (v : Byte) : (s.setReg8 r v).toggleArmed = s.toggleArmed := by cases r <;> rfl
@[simp] theorem setReg8_mem (s : State) (r : Reg8) (v : Byte) : (s.setReg8 r v).mem = s.mem := by cases r <;> rfl
@[simp] theorem setReg8_ie (s : State) (r : Reg8) (v : Byte) : (s.setReg8 r v).ie = s.ie := by cases r <;> rfl
@[simp] theorem setReg8_romBank (s : State) (r : Reg8) (v : Byte) : (s.setReg8 r v).romBank = s.romBank := by cases r <;> rfl
@[simp] theorem setReg8_joyCol (s : State) (r : Reg8) (v : Byte) : (s.setReg8 r v).joyCol = s.joyCol := by cases r <;> rfl
@[simp] theorem setReg8_joyRow (s : State) (r : Reg8) (v : Byte) : (s.setReg8 r v).joyRow = s.joyRow := by cases r <;> rfl
@[simp] theorem setReg8_cycles (s : State) (r : Reg8) (v : Byte) : (s.setReg8 r v).cycles = s.cycles := by cases r <;> rfl
@[simp] theorem setReg8_haltStop (s : State) (r : Reg8) (v : Byte) : (s.setReg8 r v).haltStop = s.haltStop := by cases r <;> rfl
@[simp] theorem setReg8_status (s : State) (r : Reg8) (v : Byte) : (s.setReg8 r v).status = s.status := by cases r <;> rfl
@[simp] theorem setReg8_rom (s : State) (r : Reg8) (v : Byte) : (s.setReg8 r v).rom = s.rom := by cases r <;> rfl
@[simp] theorem setReg8_romLen (s : State) (r : Reg8) (v : Byte) : (s.setReg8 r v).romLen = s.romLen := by cases r <;> rfl
@[simp] theorem setReg8_env (s : State) (r : Reg8) (v : Byte) : (s.setReg8 r v).env = s.env := by cases r <;> rfl
@[simp] theorem setReg8_draws (s : State) (r : Reg8) (v : Byte) : (s.setReg8 r v).draws = s.draws := by cases r <;> rfl

/-! ### The program counter -/

@[simp] theorem setPc_pc (s : State) (t : Word) : (s.setPc t).pc = t := rfl
@[simp] theorem advance_pc (s : State) (n : Word) : (s.advance n).pc = s.pc + n := rfl
@[simp] theorem setPc_af (s : State) (t : Word) : (s.setPc t).af = s.af := rfl
@[simp] theorem setPc_bc (s : State) (t : Word) : (s.setPc t).bc = s.bc := rfl
@[simp] theorem setPc_de (s : State) (t : Word) : (s.setPc t).de = s.de := rfl
@[simp] theorem setPc_hl (s : State) (t : Word) : (s.setPc t).hl = s.hl := rfl
@[simp] theorem setPc_sp (s : State) (t : Word) : (s.setPc t).sp = s.sp := rfl
@[simp] theorem setPc_ime (s : State) (t : Word) : (s.setPc t).ime = s.ime := rfl
@[simp] theorem setPc_toggleArmed (s : State) (t : Word) : (s.setPc t).toggleArmed = s.toggleArmed := rfl
@[simp] theorem setPc_mem (s : State) (t : Word) : (s.setPc t).mem = s.mem := rfl
@[simp] theorem setPc_ie (s : State) (t : Word) : (s.setPc t).ie = s.ie := rfl
@[simp] theorem setPc_romBank (s : State) (t : Word) : (s.setPc t).romBank = s.romBank := rfl
@[simp] theorem setPc_joyCol (s : State) (t : Word) : (s.setPc t).joyCol = s.joyCol := rfl
@[simp] theorem setPc_joyRow (s : State) (t : Word) : (s.setPc t).joyRow = s.joyRow := rfl
@[simp] theorem setPc_cycles (s : State) (t : Word) : (s.setPc t).cycles = s.cycles := rfl
@[simp] theorem setPc_haltStop (s : State) (t : Word) : (s.setPc t).haltStop = s.haltStop := rfl
@[simp] theorem setPc_status (s : State) (t : Word) : (s.setPc t).status = s.status := rfl
@[simp] theorem setPc_rom (s : State) (t : Word) : (s.setPc t).rom = s.rom := rfl
@[simp] theorem setPc_romLen (s : State) (t : Word) : (s.setPc t).romLen = s.romLen := rfl
@[simp] theorem setPc_env (s : State) (t : Word) : (s.setPc t).env = s.env := rfl
@[simp] theorem setPc_draws (s : State) (t : Word) : (s.setPc t).draws = s.draws := rfl

@[simp] theorem advance_af (s : State) (n : Word) : (s.advance n).af = s.af := rfl
@[simp] theorem advance_bc (s : State) (n : Word) : (s.advance n).bc = s.bc := rfl
@[simp] theorem advance_de (s : State) (n : Word) : (s.advance n).de = s.de := rfl
@[simp] theorem advance_hl (s : State) (n : Word) : (s.advance n).hl = s.hl := rfl
@[simp] theorem advance_sp (s : State) (n : Word) : (s.advance n).sp = s.sp := rfl
@[simp] theorem advance_ime (s : State) (n : Word) : (s.advance n).ime = s.ime := rfl
@[simp] theorem advance_toggleArmed (s : State) (n : Word) : (s.advance n).toggleArmed = s.toggleArmed := rfl
@[simp] theorem advance_mem (s : State) (n : Word) : (s.advance n).mem = s.mem := rfl
@[simp] theorem advance_ie (s : State) (n : Word) : (s.advance n).ie = s.ie := rfl
@[simp] theorem advance_romBank (s : State) (n : Word) : (s.advance n).romBank = s.romBank := rfl
@[simp] theorem advance_joyCol (s : State) (n : Word) : (s.advance n).joyCol = s.joyCol := rfl
@[simp] theorem advance_joyRow (s : State) (n : Word) : (s.advance n).joyRow = s.joyRow := rfl
@[simp] theorem advance_cycles (s : State) (n : Word) : (s.advance n).cycles = s.cycles := rfl
@[simp] theorem advance_haltStop (s : State) (n : Word) : (s.advance n).haltStop = s.haltStop := rfl
@[simp] theorem advance_status (s : State) (n : Word) : (s.advance n).status = s.status := rfl
@[simp] theorem advance_rom (s : State) (n : Word) : (s.advance n).rom = s.rom := rfl
@[simp] theorem advance_romLen (s : State) (n : Word) : (s.advance n).romLen = s.romLen := rfl
@[simp] theorem advance_env (s : State) (n : Word) : (s.advance n).env = s.env := rfl
@[simp] theorem advance_draws (s : State) (n : Word) : (s.advance n).draws = s.draws := rfl

/-! ### Storage -/

@[simp] theorem store_mem (s : State) (a : Word) (v : Byte) : (s.store a v).mem = Memory.write s.mem (storageKey a) v := rfl
@[simp] theorem store_af (s : State) (a : Word) (v : Byte) : (s.store a v).af = s.af := rfl
@[simp] theorem store_bc (s : State) (a : Word) (v : Byte) : (s.store a v).bc = s.bc := rfl
@[simp] theorem store_de (s : State) (a : Word) (v : Byte) : (s.store a v).de = s.de := rfl
@[simp] theorem store_hl (s : State) (a : Word) (v : Byte) : (s.store a v).hl = s.hl := rfl
@[simp] theorem store_sp (s : State) (a : Word) (v : Byte) : (s.store a v).sp = s.sp := rfl
@[simp] theorem store_pc (s : State) (a : Word) (v : Byte) : (s.store a v).pc = s.pc := rfl
@[simp] theorem store_ime (s : State) (a : Word) (v : Byte) : (s.store a v).ime = s.ime := rfl
@[simp] theorem store_toggleArmed (s : State) (a : Word) (v : Byte) : (s.store a v).toggleArmed = s.toggleArmed := rfl
@[simp] theorem store_ie (s : State) (a : Word) (v : Byte) : (s.store a v).ie = s.ie := rfl
@[simp] theorem store_romBank (s : State) (a : Word) (v : Byte) : (s.store a v).romBank = s.romBank := rfl
@[simp] theorem store_joyCol (s : State) (a : Word) (v : Byte) : (s.store a v).joyCol = s.joyCol := rfl
@[simp] theorem store_joyRow (s : State) (a : Word) (v : Byte) : (s.store a v).joyRow = s.joyRow := rfl
@[simp] theorem store_cycles (s : State) (a : Word) (v : Byte) : (s.store a v).cycles = s.cycles := rfl
@[simp] theorem store_haltStop (s : State) (a : Word) (v : Byte) : (s.store a v).haltStop = s.haltStop := rfl
@[simp] theorem store_status (s : State) (a : Word) (v : Byte) : (s.store a v).status = s.status := rfl
@[simp] theorem store_rom (s : State) (a : Word) (v : Byte) : (s.store a v).rom = s.rom := rfl
@[simp] theorem store_romLen (s : State) (a : Word) (v : Byte) : (s.store a v).romLen = s.romLen := rfl
@[simp] theorem store_env (s : State) (a : Word) (v : Byte) : (s.store a v).env = s.env := rfl
@[simp] theorem store_draws (s : State) (a : Word) (v : Byte) : (s.store a v).draws = s.draws := rfl

/-! ### The bus -/

/-- All that a byte write can do (20_memory.md R51). -/
theorem write8_cases (s : State) (a : Word) (v : Byte) :
    (s.write8 a v = { s with romBank := newBank v s.romBank } ∧ isBankSelect a = true ∧ a.toNat ≤ 0x7FFF) ∨
    s.write8 a v = s ∨ s.write8 a v = s.store a v ∨ s.write8 a v = s.joypadWrite v ∨ s.write8 a v = { s with ie := v } := by
  unfold State.write8 State.periphWrite
  split
  all_goals try split
  all_goals try split
  all_goals simp_all [isBankSelect]
  all_goals omega

@[simp] theorem write8_af (s : State) (a : Word) (v : Byte) : (s.write8 a v).af = s.af := by
  rcases write8_cases s a v with ⟨h, -⟩ | h | h | h | h <;> rw [h] <;> rfl
@[simp] theorem write8_bc (s : State) (a : Word) (v : Byte) : (s.write8 a v).bc = s.bc := by
  rcases write8_cases s a v with ⟨h, -⟩ | h | h | h | h <;> rw [h] <;> rfl
@[simp] theorem write8_de (s : State) (a : Word) (v : Byte) : (s.write8 a v).de = s.de := by
  rcases write8_cases s a v with ⟨h, -⟩ | h | h | h | h <;> rw [h] <;> rfl
@[simp] theorem write8_hl (s : State) (a : Word) (v : Byte) : (s.write8 a v).hl = s.hl := by
  rcases write8_cases s a v with ⟨h, -⟩ | h | h | h | h <;> rw [h] <;> rfl
@[simp] theorem write8_sp (s : State) (a : Word) (v : Byte) : (s.write8 a v).sp = s.sp := by
  rcases write8_cases s a v with ⟨h, -⟩ | h | h | h | h <;> rw [h] <;> rfl
@[simp] theorem write8_pc (s : State) (a : Word) (v : Byte) : (s.write8 a v).pc = s.pc := by
  rcases write8_cases s a v with ⟨h, -⟩ | h | h | h | h <;> rw [h] <;> rfl
@[simp] theorem write8_ime (s : State) (a : Word) (v : Byte) : (s.write8 a v).ime = s.ime := by
  rcases write8_cases s a v with ⟨h, -⟩ | h | h | h | h <;> rw [h] <;> rfl
@[simp] theorem write8_toggleArmed (s : State) (a : Word) (v : Byte) : (s.write8 a v).toggleArmed = s.toggleArmed := by
  rcases write8_cases s a v with ⟨h, -⟩ | h | h | h | h <;> rw [h] <;> rfl
@[simp] theorem write8_joyRow (s : State) (a : Word) (v : Byte) : (s.write8 a v).joyRow = s.joyRow := by
  rcases write8_cases s a v with ⟨h, -⟩ | h | h | h | h <;> rw [h] <;> rfl
@[simp] theorem write8_cycles (s : State) (a : Word) (v : Byte) : (s.write8 a v).cycles = s.cycles := by
  rcases write8_cases s a v with ⟨h, -⟩ | h | h | h | h <;> rw [h] <;> rfl
@[simp] theorem write8_haltStop (s : State) (a : Word) (v : Byte) : (s.write8 a v).haltStop = s.haltStop := by
  rcases write8_cases s a v with ⟨h, -⟩ | h | h | h | h <;> rw [h] <;> rfl
@[simp] theorem write8_status (s : State) (a : Word) (v : Byte) : (s.write8 a v).status = s.status := by
  rcases write8_cases s a v with ⟨h, -⟩ | h | h | h | h <;> rw [h] <;> rfl
@[simp] theorem write8_rom (s : State) (a : Word) (v : Byte) : (s.write8 a v).rom = s.rom := by
  rcases write8_cases s a v with ⟨h, -⟩ | h | h | h | h <;> rw [h] <;> rfl
@[simp] theorem write8_romLen (s : State) (a : Word) (v : Byte) : (s.write8 a v).romLen = s.romLen := by
  rcases write8_cases s a v with ⟨h, -⟩ | h | h | h | h <;> rw [h] <;> rfl
@[simp] theorem write8_env (s : State) (a : Word) (v : Byte) : (s.write8 a v).env = s.env := by
  rcases write8_cases s a v with ⟨h, -⟩ | h | h | h | h <;> rw [h] <;> rfl
@[simp] theorem write8_draws (s : State) (a : Word) (v : Byte) : (s.write8 a v).draws = s.draws := by
  rcases write8_cases s a v with ⟨h, -⟩ | h | h | h | h <;> rw [h] <;> rfl

@[simp] theorem write16_af (s : State) (a : Word) (w : Word) : (s.write16 a w).af = s.af := by simp [State.write16]
@[simp] theorem write16_bc (s : State) (a : Word) (w : Word) : (s.write16 a w).bc = s.bc := by simp [State.write16]
@[simp] theorem write16_de (s : State) (a : Word) (w : Word) : (s.write16 a w).de = s.de := by simp [State.write16]
@[simp] theorem write16_hl (s : State) (a : Word) (w : Word) : (s.write16 a w).hl = s.hl := by simp [State.write16]
@[simp] theorem write16_sp (s : State) (a : Word) (w : Word) : (s.write16 a w).sp = s.sp := by simp [State.write16]
@[simp] theorem write16_pc (s : State) (a : Word) (w : Word) : (s.write16 a w).pc = s.pc := by simp [State.write16]
@[simp] theorem write16_ime (s : State) (a : Word) (w : Word) : (s.write16 a w).ime = s.ime := by simp [State.write16]
@[simp] theorem write16_toggleArmed (s : State) (a : Word) (w : Word) : (s.write16 a w).toggleArmed = s.toggleArmed := by simp [State.write16]
@[simp] theorem write16_joyRow (s : State) (a : Word) (w : Word) : (s.write16 a w).joyRow = s.joyRow := by simp [State.write16]
@[simp] theorem write16_cycles (s : State) (a : Word) (w : Word) : (s.write16 a w).cycles = s.cycles := by simp [State.write16]
@[simp] theorem write16_haltStop (s : State) (a : Word) (w : Word) : (s.write16 a w).haltStop = s.haltStop := by simp [State.write16]
@[simp] theorem write16_status (s : State) (a : Word) (w : Word) : (s.write16 a w).status = s.status := by simp [State.write16]
@[simp] theorem write16_rom (s : State) (a : Word) (w : Word) : (s.write16 a w).rom = s.rom := by simp [State.write16]
@[simp] theorem write16_romLen (s : State) (a : Word) (w : Word) : (s.write16 a w).romLen = s.romLen := by simp [State.write16]
@[simp] theorem write16_env (s : State) (a : Word) (w : Word) : (s.write16 a w).env = s.env := by simp [State.write16]
@[simp] theorem write16_draws (s : State) (a : Word) (w : Word) : (s.write16 a w).draws = s.draws := by simp [State.write16]

@[simp] theorem push16_sp (s : State) (w : Word) : (s.push16 w).sp = s.sp - 2 := by simp [State.push16]
@[simp] theorem push16_af (s : State) (w : Word) : (s.push16 w).af = s.af := by simp [State.push16]
@[simp] theorem push16_bc (s : State) (w : Word) : (s.push16 w).bc = s.bc := by simp [State.push16]
@[simp] theorem push16_de (s : State) (w : Word) : (s.push16 w).de = s.de := by simp [State.push16]
@[simp] theorem push16_hl (s : State) (w : Word) : (s.push16 w).hl = s.hl := by simp [State.push16]
@[simp] theorem push16_pc (s : State) (w : Word) : (s.push16 w).pc = s.pc := by simp [State.push16]
@[simp] theorem push16_ime (s : State) (w : Word) : (s.push16 w).ime = s.ime := by simp [State.push16]
@[simp] theorem push16_toggleArmed (s : State) (w : Word) : (s.push16 w).toggleArmed = s.toggleArmed := by simp [State.push16]
@[simp] theorem push16_joyRow (s : State) (w : Word) : (s.push16 w).joyRow = s.joyRow := by simp [State.push16]
@[simp] theorem push16_cycles (s : State) (w : Word) : (s.push16 w).cycles = s.cycles := by simp [State.push16]
@[simp] theorem push16_haltStop (s : State) (w : Word) : (s.push16 w).haltStop = s.haltStop := by simp [State.push16]
@[simp] theorem push16_status (s : State) (w : Word) : (s.push16 w).status = s.status := by simp [State.push16]
@[simp] theorem push16_rom (s : State) (w : Word) : (s.push16 w).rom = s.rom := by simp [State.push16]
@[simp] theorem push16_romLen (s : State) (w : Word) : (s.push16 w).romLen = s.romLen := by simp [State.push16]
@[simp] theorem push16_env (s : State) (w : Word) : (s.push16 w).env = s.env := by simp [State.push16]
@[simp] theorem push16_draws (s : State) (w : Word) : (s.push16 w).draws = s.draws := by simp [State.push16]

/-- Under the default `PeriphSet` no read is a draw (20_memory.md R63, D12), so a read changes nothing. -/
@[simp] theorem noteRead_eq (s : State) (a : Word) : s.noteRead a = s := by
  simp [State.noteRead, isOtherPeriph, periphSet]

/-! ### The interrupt controller -/

@[simp] theorem armToggle_toggleArmed (s : State) : s.armToggle.toggleArmed = true := rfl
@[simp] theorem armToggle_af (s : State) : (s.armToggle).af = s.af := rfl
@[simp] theorem armToggle_bc (s : State) : (s.armToggle).bc = s.bc := rfl
@[simp] theorem armToggle_de (s : State) : (s.armToggle).de = s.de := rfl
@[simp] theorem armToggle_hl (s : State) : (s.armToggle).hl = s.hl := rfl
@[simp] theorem armToggle_sp (s : State) : (s.armToggle).sp = s.sp := rfl
@[simp] theorem armToggle_pc (s : State) : (s.armToggle).pc = s.pc := rfl
@[simp] theorem armToggle_ime (s : State) : (s.armToggle).ime = s.ime := rfl
@[simp] theorem armToggle_mem (s : State) : (s.armToggle).mem = s.mem := rfl
@[simp] theorem armToggle_ie (s : State) : (s.armToggle).ie = s.ie := rfl
@[simp] theorem armToggle_romBank (s : State) : (s.armToggle).romBank = s.romBank := rfl
@[simp] theorem armToggle_joyCol (s : State) : (s.armToggle).joyCol = s.joyCol := rfl
@[simp] theorem armToggle_joyRow (s : State) : (s.armToggle).joyRow = s.joyRow := rfl
@[simp] theorem armToggle_cycles (s : State) : (s.armToggle).cycles = s.cycles := rfl
@[simp] theorem armToggle_haltStop (s : State) : (s.armToggle).haltStop = s.haltStop := rfl
@[simp] theorem armToggle_status (s : State) : (s.armToggle).status = s.status := rfl
@[simp] theorem armToggle_rom (s : State) : (s.armToggle).rom = s.rom := rfl
@[simp] theorem armToggle_romLen (s : State) : (s.armToggle).romLen = s.romLen := rfl
@[simp] theorem armToggle_env (s : State) : (s.armToggle).env = s.env := rfl
@[simp] theorem armToggle_draws (s : State) : (s.armToggle).draws = s.draws := rfl

@[simp] theorem addCycles_cycles (s : State) (n : Nat) : (s.addCycles n).cycles = s.cycles + n := rfl
@[simp] theorem addCycles_af (s : State) (n : Nat) : (s.addCycles n).af = s.af := rfl
@[simp] theorem addCycles_bc (s : State) (n : Nat) : (s.addCycles n).bc = s.bc := rfl
@[simp] theorem addCycles_de (s : State) (n : Nat) : (s.addCycles n).de = s.de := rfl
@[simp] theorem addCycles_hl (s : State) (n : Nat) : (s.addCycles n).hl = s.hl := rfl
@[simp] theorem addCycles_sp (s : State) (n : Nat) : (s.addCycles n).sp = s.sp := rfl
@[simp] theorem addCycles_pc (s : State) (n : Nat) : (s.addCycles n).pc = s.pc := rfl
@[simp] theorem addCycles_ime (s : State) (n : Nat) : (s.addCycles n).ime = s.ime := rfl
@[simp] theorem addCycles_toggleArmed (s : State) (n : Nat) : (s.addCycles n).toggleArmed = s.toggleArmed := rfl
@[simp] theorem addCycles_mem (s : State) (n : Nat) : (s.addCycles n).mem = s.mem := rfl
@[simp] theorem addCycles_ie (s : State) (n : Nat) : (s.addCycles n).ie = s.ie := rfl
@[simp] theorem addCycles_romBank (s : State) (n : Nat) : (s.addCycles n).romBank = s.romBank := rfl
@[simp] theorem addCycles_joyCol (s : State) (n : Nat) : (s.addCycles n).joyCol = s.joyCol := rfl
@[simp] theorem addCycles_joyRow (s : State) (n : Nat) : (s.addCycles n).joyRow = s.joyRow := rfl
@[simp] theorem addCycles_haltStop (s : State) (n : Nat) : (s.addCycles n).haltStop = s.haltStop := rfl
@[simp] theorem addCycles_status (s : State) (n : Nat) : (s.addCycles n).status = s.status := rfl
@[simp] theorem addCycles_rom (s : State) (n : Nat) : (s.addCycles n).rom = s.rom := rfl
@[simp] theorem addCycles_romLen (s : State) (n : Nat) : (s.addCycles n).romLen = s.romLen := rfl
@[simp] theorem addCycles_env (s : State) (n : Nat) : (s.addCycles n).env = s.env := rfl
@[simp] theorem addCycles_draws (s : State) (n : Nat) : (s.addCycles n).draws = s.draws := rfl

@[simp] theorem applyToggle_toggleArmed (s : State) : s.applyToggle.toggleArmed = false := by
  unfold State.applyToggle; split <;> simp_all
@[simp] theorem applyToggle_ime (s : State) : s.applyToggle.ime = (s.ime ^^ s.toggleArmed) := by
  unfold State.applyToggle; split <;> simp_all
@[simp] theorem applyToggle_af (s : State) : (s.applyToggle).af = s.af := by
  unfold State.applyToggle; split <;> rfl
@[simp] theorem applyToggle_bc (s : State) : (s.applyToggle).bc = s.bc := by
  unfold State.applyToggle; split <;> rfl
@[simp] theorem applyToggle_de (s : State) : (s.applyToggle).de = s.de := by
  unfold State.applyToggle; split <;> rfl
@[simp] theorem applyToggle_hl (s : State) : (s.applyToggle).hl = s.hl := by
  unfold State.applyToggle; split <;> rfl
@[simp] theorem applyToggle_sp (s : State) : (s.applyToggle).sp = s.sp := by
  unfold State.applyToggle; split <;> rfl
@[simp] theorem applyToggle_pc (s : State) : (s.applyToggle).pc = s.pc := by
  unfold State.applyToggle; split <;> rfl
@[simp] theorem applyToggle_mem (s : State) : (s.applyToggle).mem = s.mem := by
  unfold State.applyToggle; split <;> rfl
@[simp] theorem applyToggle_ie (s : State) : (s.applyToggle).ie = s.ie := by
  unfold State.applyToggle; split <;> rfl
@[simp] theorem applyToggle_romBank (s : State) : (s.applyToggle).romBank = s.romBank := by
  unfold State.applyToggle; split <;> rfl
@[simp] theorem applyToggle_joyCol (s : State) : (s.applyToggle).joyCol = s.joyCol := by
  unfold State.applyToggle; split <;> rfl
@[simp] theorem applyToggle_joyRow (s : State) : (s.applyToggle).joyRow = s.joyRow := by
  unfold State.applyToggle; split <;> rfl
@[simp] theorem applyToggle_cycles (s : State) : (s.applyToggle).cycles = s.cycles := by
  unfold State.applyToggle; split <;> rfl
@[simp] theorem applyToggle_haltStop (s : State) : (s.applyToggle).haltStop = s.haltStop := by
  unfold State.applyToggle; split <;> rfl
@[simp] theorem applyToggle_status (s : State) : (s.applyToggle).status = s.status := by
  unfold State.applyToggle; split <;> rfl
@[simp] theorem applyToggle_rom (s : State) : (s.applyToggle).rom = s.rom := by
  unfold State.applyToggle; split <;> rfl
@[simp] theorem applyToggle_romLen (s : State) : (s.applyToggle).romLen = s.romLen := by
  unfold State.applyToggle; split <;> rfl
@[simp] theorem applyToggle_env (s : State) : (s.applyToggle).env = s.env := by
  unfold State.applyToggle; split <;> rfl
@[simp] theorem applyToggle_draws (s : State) : (s.applyToggle).draws = s.draws := by
  unfold State.applyToggle; split <;> rfl

@[simp] theorem setIf_af (s : State) (v : Byte) : (s.setIf v).af = s.af := rfl
@[simp] theorem setIf_bc (s : State) (v : Byte) : (s.setIf v).bc = s.bc := rfl
@[simp] theorem setIf_de (s : State) (v : Byte) : (s.setIf v).de = s.de := rfl
@[simp] theorem setIf_hl (s : State) (v : Byte) : (s.setIf v).hl = s.hl := rfl
@[simp] theorem setIf_sp (s : State) (v : Byte) : (s.setIf v).sp = s.sp := rfl
@[simp] theorem setIf_pc (s : State) (v : Byte) : (s.setIf v).pc = s.pc := rfl
@[simp] theorem setIf_ime (s : State) (v : Byte) : (s.setIf v).ime = s.ime := rfl
@[simp] theorem setIf_toggleArmed (s : State) (v : Byte) : (s.setIf v).toggleArmed = s.toggleArmed := rfl
@[simp] theorem setIf_ie (s : State) (v : Byte) : (s.setIf v).ie = s.ie := rfl
@[simp] theorem setIf_romBank (s : State) (v : Byte) : (s.setIf v).romBank = s.romBank := rfl
@[simp] theorem setIf_joyCol (s : State) (v : Byte) : (s.setIf v).joyCol = s.joyCol := rfl
@[simp] theorem setIf_joyRow (s : State) (v : Byte) : (s.setIf v).joyRow = s.joyRow := rfl
@[simp] theorem setIf_cycles (s : State) (v : Byte) : (s.setIf v).cycles = s.cycles := rfl
@[simp] theorem setIf_haltStop (s : State) (v : Byte) : (s.setIf v).haltStop = s.haltStop := rfl
@[simp] theorem setIf_status (s : State) (v : Byte) : (s.setIf v).status = s.status := rfl
@[simp] theorem setIf_rom (s : State) (v : Byte) : (s.setIf v).rom = s.rom := rfl
@[simp] theorem setIf_romLen (s : State) (v : Byte) : (s.setIf v).romLen = s.romLen := rfl
@[simp] theorem setIf_env (s : State) (v : Byte) : (s.setIf v).env = s.env := rfl
@[simp] theorem setIf_draws (s : State) (v : Byte) : (s.setIf v).draws = s.draws := rfl

@[simp] theorem signalInterrupt_af (s : State) (src : Source) : (s.signalInterrupt src).af = s.af := rfl
@[simp] theorem signalInterrupt_bc (s : State) (src : Source) : (s.signalInterrupt src).bc = s.bc := rfl
@[simp] theorem signalInterrupt_de (s : State) (src : Source) : (s.signalInterrupt src).de = s.de := rfl
@[simp] theorem signalInterrupt_hl (s : State) (src : Source) : (s.signalInterrupt src).hl = s.hl := rfl
@[simp] theorem signalInterrupt_sp (s : State) (src : Source) : (s.signalInterrupt src).sp = s.sp := rfl
@[simp] theorem signalInterrupt_pc (s : State) (src : Source) : (s.signalInterrupt src).pc = s.pc := rfl
@[simp] theorem signalInterrupt_ime (s : State) (src : Source) : (s.signalInterrupt src).ime = s.ime := rfl
@[simp] theorem signalInterrupt_toggleArmed (s : State) (src : Source) : (s.signalInterrupt src).toggleArmed = s.toggleArmed := rfl
@[simp] theorem signalInterrupt_ie (s : State) (src : Source) : (s.signalInterrupt src).ie = s.ie := rfl
@[simp] theorem signalInterrupt_romBank (s : State) (src : Source) : (s.signalInterrupt src).romBank = s.romBank := rfl
@[simp] theorem signalInterrupt_joyCol (s : State) (src : Source) : (s.signalInterrupt src).joyCol = s.joyCol := rfl
@[simp] theorem signalInterrupt_joyRow (s : State) (src : Source) : (s.signalInterrupt src).joyRow = s.joyRow := rfl
@[simp] theorem signalInterrupt_cycles (s : State) (src : Source) : (s.signalInterrupt src).cycles = s.cycles := rfl
@[simp] theorem signalInterrupt_haltStop (s : State) (src : Source) : (s.signalInterrupt src).haltStop = s.haltStop := rfl
@[simp] theorem signalInterrupt_status (s : State) (src : Source) : (s.signalInterrupt src).status = s.status := rfl
@[simp] theorem signalInterrupt_rom (s : State) (src : Source) : (s.signalInterrupt src).rom = s.rom := rfl
@[simp] theorem signalInterrupt_romLen (s : State) (src : Source) : (s.signalInterrupt src).romLen = s.romLen := rfl
@[simp] theorem signalInterrupt_env (s : State) (src : Source) : (s.signalInterrupt src).env = s.env := rfl
@[simp] theorem signalInterrupt_draws (s : State) (src : Source) : (s.signalInterrupt src).draws = s.draws := rfl

@[simp] theorem raiseUndefinedOpcode_status (s : State) (t : Table) (k : Byte) :
    (s.raiseUndefinedOpcode t k).status = .faulted t k s.pc := rfl
@[simp] theorem raiseUndefinedOpcode_af (s : State) (t : Table) (k : Byte) : (s.raiseUndefinedOpcode t k).af = s.af := rfl
@[simp] theorem raiseUndefinedOpcode_bc (s : State) (t : Table) (k : Byte) : (s.raiseUndefinedOpcode t k).bc = s.bc := rfl
@[simp] theorem raiseUndefinedOpcode_de (s : State) (t : Table) (k : Byte) : (s.raiseUndefinedOpcode t k).de = s.de := rfl
@[simp] theorem raiseUndefinedOpcode_hl (s : State) (t : Table) (k : Byte) : (s.raiseUndefinedOpcode t k).hl = s.hl := rfl
@[simp] theorem raiseUndefinedOpcode_sp (s : State) (t : Table) (k : Byte) : (s.raiseUndefinedOpcode t k).sp = s.sp := rfl
@[simp] theorem raiseUndefinedOpcode_pc (s : State) (t : Table) (k : Byte) : (s.raiseUndefinedOpcode t k).pc = s.pc := rfl
@[simp] theorem raiseUndefinedOpcode_ime (s : State) (t : Table) (k : Byte) : (s.raiseUndefinedOpcode t k).ime = s.ime := rfl
@[simp] theorem raiseUndefinedOpcode_toggleArmed (s : State) (t : Table) (k : Byte) : (s.raiseUndefinedOpcode t k).toggleArmed = s.toggleArmed := rfl
@[simp] theorem raiseUndefinedOpcode_mem (s : State) (t : Table) (k : Byte) : (s.raiseUndefinedOpcode t k).mem = s.mem := rfl
@[simp] theorem raiseUndefinedOpcode_ie (s : State) (t : Table) (k : Byte) : (s.raiseUndefinedOpcode t k).ie = s.ie := rfl
@[simp] theorem raiseUndefinedOpcode_romBank (s : State) (t : Table) (k : Byte) : (s.raiseUndefinedOpcode t k).romBank = s.romBank := rfl
@[simp] theorem raiseUndefinedOpcode_joyCol (s : State) (t : Table) (k : Byte) : (s.raiseUndefinedOpcode t k).joyCol = s.joyCol := rfl
@[simp] theorem raiseUndefinedOpcode_joyRow (s : State) (t : Table) (k : Byte) : (s.raiseUndefinedOpcode t k).joyRow = s.joyRow := rfl
@[simp] theorem raiseUndefinedOpcode_cycles (s : State) (t : Table) (k : Byte) : (s.raiseUndefinedOpcode t k).cycles = s.cycles := rfl
@[simp] theorem raiseUndefinedOpcode_haltStop (s : State) (t : Table) (k : Byte) : (s.raiseUndefinedOpcode t k).haltStop = s.haltStop := rfl
@[simp] theorem raiseUndefinedOpcode_rom (s : State) (t : Table) (k : Byte) : (s.raiseUndefinedOpcode t k).rom = s.rom := rfl
@[simp] theorem raiseUndefinedOpcode_romLen (s : State) (t : Table) (k : Byte) : (s.raiseUndefinedOpcode t k).romLen = s.romLen := rfl
@[simp] theorem raiseUndefinedOpcode_env (s : State) (t : Table) (k : Byte) : (s.raiseUndefinedOpcode t k).env = s.env := rfl
@[simp] theorem raiseUndefinedOpcode_draws (s : State) (t : Table) (k : Byte) : (s.raiseUndefinedOpcode t k).draws = s.draws := rfl

@[simp] theorem serviceInterrupt_pc (s : State) (src : Source) : (s.serviceInterrupt src).pc = src.vector := rfl
@[simp] theorem serviceInterrupt_ime (s : State) (src : Source) : (s.serviceInterrupt src).ime = false := by
  simp [State.serviceInterrupt]
@[simp] theorem serviceInterrupt_sp (s : State) (src : Source) : (s.serviceInterrupt src).sp = s.sp - 2 := by
  simp [State.serviceInterrupt]
@[simp] theorem serviceInterrupt_cycles (s : State) (src : Source) : (s.serviceInterrupt src).cycles = s.cycles + 20 := by
  simp [State.serviceInterrupt]
@[simp] theorem serviceInterrupt_af (s : State) (src : Source) : (s.serviceInterrupt src).af = s.af := by
  simp [State.serviceInterrupt]
@[simp] theorem serviceInterrupt_bc (s : State) (src : Source) : (s.serviceInterrupt src).bc = s.bc := by
  simp [State.serviceInterrupt]
@[simp] theorem serviceInterrupt_de (s : State) (src : Source) : (s.serviceInterrupt src).de = s.de := by
  simp [State.serviceInterrupt]
@[simp] theorem serviceInterrupt_hl (s : State) (src : Source) : (s.serviceInterrupt src).hl = s.hl := by
  simp [State.serviceInterrupt]
@[simp] theorem serviceInterrupt_toggleArmed (s : State) (src : Source) : (s.serviceInterrupt src).toggleArmed = s.toggleArmed := by
  simp [State.serviceInterrupt]
@[simp] theorem serviceInterrupt_joyRow (s : State) (src : Source) : (s.serviceInterrupt src).joyRow = s.joyRow := by
  simp [State.serviceInterrupt]
@[simp] theorem serviceInterrupt_haltStop (s : State) (src : Source) : (s.serviceInterrupt src).haltStop = s.haltStop := by
  simp [State.serviceInterrupt]
@[simp] theorem serviceInterrupt_status (s : State) (src : Source) : (s.serviceInterrupt src).status = s.status := by
  simp [State.serviceInterrupt]
@[simp] theorem serviceInterrupt_rom (s : State) (src : Source) : (s.serviceInterrupt src).rom = s.rom := by
  simp [State.serviceInterrupt]
@[simp] theorem serviceInterrupt_romLen (s : State) (src : Source) : (s.serviceInterrupt src).romLen = s.romLen := by
  simp [State.serviceInterrupt]
@[simp] theorem serviceInterrupt_env (s : State) (src : Source) : (s.serviceInterrupt src).env = s.env := by
  simp [State.serviceInterrupt]
@[simp] theorem serviceInterrupt_draws (s : State) (src : Source) : (s.serviceInterrupt src).draws = s.draws := by
  simp [State.serviceInterrupt]

/-- All that the poll can do (60_exceptions.md R140, R141). -/
theorem pollAndDispatch_cases (s : State) :
    s.pollAndDispatch = s ∨ ∃ src, s.ime = true ∧ lowestSource s.pending = some src ∧ s.pollAndDispatch = s.serviceInterrupt src := by
  unfold State.pollAndDispatch
  split
  · split
    · next src h => exact .inr ⟨src, by assumption, h, rfl⟩
    · exact .inl rfl
  · exact .inl rfl

@[simp] theorem pollAndDispatch_af (s : State) : (s.pollAndDispatch).af = s.af := by
  rcases pollAndDispatch_cases s with h | ⟨src, -, -, h⟩ <;> rw [h]; simp
@[simp] theorem pollAndDispatch_bc (s : State) : (s.pollAndDispatch).bc = s.bc := by
  rcases pollAndDispatch_cases s with h | ⟨src, -, -, h⟩ <;> rw [h]; simp
@[simp] theorem pollAndDispatch_de (s : State) : (s.pollAndDispatch).de = s.de := by
  rcases pollAndDispatch_cases s with h | ⟨src, -, -, h⟩ <;> rw [h]; simp
@[simp] theorem pollAndDispatch_hl (s : State) : (s.pollAndDispatch).hl = s.hl := by
  rcases pollAndDispatch_cases s with h | ⟨src, -, -, h⟩ <;> rw [h]; simp
@[simp] theorem pollAndDispatch_toggleArmed (s : State) : (s.pollAndDispatch).toggleArmed = s.toggleArmed := by
  rcases pollAndDispatch_cases s with h | ⟨src, -, -, h⟩ <;> rw [h]; simp
@[simp] theorem pollAndDispatch_joyRow (s : State) : (s.pollAndDispatch).joyRow = s.joyRow := by
  rcases pollAndDispatch_cases s with h | ⟨src, -, -, h⟩ <;> rw [h]; simp
@[simp] theorem pollAndDispatch_haltStop (s : State) : (s.pollAndDispatch).haltStop = s.haltStop := by
  rcases pollAndDispatch_cases s with h | ⟨src, -, -, h⟩ <;> rw [h]; simp
@[simp] theorem pollAndDispatch_status (s : State) : (s.pollAndDispatch).status = s.status := by
  rcases pollAndDispatch_cases s with h | ⟨src, -, -, h⟩ <;> rw [h]; simp
@[simp] theorem pollAndDispatch_rom (s : State) : (s.pollAndDispatch).rom = s.rom := by
  rcases pollAndDispatch_cases s with h | ⟨src, -, -, h⟩ <;> rw [h]; simp
@[simp] theorem pollAndDispatch_romLen (s : State) : (s.pollAndDispatch).romLen = s.romLen := by
  rcases pollAndDispatch_cases s with h | ⟨src, -, -, h⟩ <;> rw [h]; simp
@[simp] theorem pollAndDispatch_env (s : State) : (s.pollAndDispatch).env = s.env := by
  rcases pollAndDispatch_cases s with h | ⟨src, -, -, h⟩ <;> rw [h]; simp
@[simp] theorem pollAndDispatch_draws (s : State) : (s.pollAndDispatch).draws = s.draws := by
  rcases pollAndDispatch_cases s with h | ⟨src, -, -, h⟩ <;> rw [h]; simp

/-! ### The environment -/

@[simp] theorem joypadSignal_af (s : State) (key : Byte) (p : Bool) : (s.joypadSignal key p).af = s.af := by
  unfold State.joypadSignal State.joypadPress State.joypadRelease; split <;> (try split) <;> simp
@[simp] theorem joypadSignal_bc (s : State) (key : Byte) (p : Bool) : (s.joypadSignal key p).bc = s.bc := by
  unfold State.joypadSignal State.joypadPress State.joypadRelease; split <;> (try split) <;> simp
@[simp] theorem joypadSignal_de (s : State) (key : Byte) (p : Bool) : (s.joypadSignal key p).de = s.de := by
  unfold State.joypadSignal State.joypadPress State.joypadRelease; split <;> (try split) <;> simp
@[simp] theorem joypadSignal_hl (s : State) (key : Byte) (p : Bool) : (s.joypadSignal key p).hl = s.hl := by
  unfold State.joypadSignal State.joypadPress State.joypadRelease; split <;> (try split) <;> simp
@[simp] theorem joypadSignal_sp (s : State) (key : Byte) (p : Bool) : (s.joypadSignal key p).sp = s.sp := by
  unfold State.joypadSignal State.joypadPress State.joypadRelease; split <;> (try split) <;> simp
@[simp] theorem joypadSignal_pc (s : State) (key : Byte) (p : Bool) : (s.joypadSignal key p).pc = s.pc := by
  unfold State.joypadSignal State.joypadPress State.joypadRelease; split <;> (try split) <;> simp
@[simp] theorem joypadSignal_ime (s : State) (key : Byte) (p : Bool) : (s.joypadSignal key p).ime = s.ime := by
  unfold State.joypadSignal State.joypadPress State.joypadRelease; split <;> (try split) <;> simp
@[simp] theorem joypadSignal_toggleArmed (s : State) (key : Byte) (p : Bool) : (s.joypadSignal key p).toggleArmed = s.toggleArmed := by
  unfold State.joypadSignal State.joypadPress State.joypadRelease; split <;> (try split) <;> simp
@[simp] theorem joypadSignal_ie (s : State) (key : Byte) (p : Bool) : (s.joypadSignal key p).ie = s.ie := by
  unfold State.joypadSignal State.joypadPress State.joypadRelease; split <;> (try split) <;> simp
@[simp] theorem joypadSignal_romBank (s : State) (key : Byte) (p : Bool) : (s.joypadSignal key p).romBank = s.romBank := by
  unfold State.joypadSignal State.joypadPress State.joypadRelease; split <;> (try split) <;> simp
@[simp] theorem joypadSignal_joyCol (s : State) (key : Byte) (p : Bool) : (s.joypadSignal key p).joyCol = s.joyCol := by
  unfold State.joypadSignal State.joypadPress State.joypadRelease; split <;> (try split) <;> simp
@[simp] theorem joypadSignal_cycles (s : State) (key : Byte) (p : Bool) : (s.joypadSignal key p).cycles = s.cycles := by
  unfold State.joypadSignal State.joypadPress State.joypadRelease; split <;> (try split) <;> simp
@[simp] theorem joypadSignal_status (s : State) (key : Byte) (p : Bool) : (s.joypadSignal key p).status = s.status := by
  unfold State.joypadSignal State.joypadPress State.joypadRelease; split <;> (try split) <;> simp
@[simp] theorem joypadSignal_rom (s : State) (key : Byte) (p : Bool) : (s.joypadSignal key p).rom = s.rom := by
  unfold State.joypadSignal State.joypadPress State.joypadRelease; split <;> (try split) <;> simp
@[simp] theorem joypadSignal_romLen (s : State) (key : Byte) (p : Bool) : (s.joypadSignal key p).romLen = s.romLen := by
  unfold State.joypadSignal State.joypadPress State.joypadRelease; split <;> (try split) <;> simp
@[simp] theorem joypadSignal_env (s : State) (key : Byte) (p : Bool) : (s.joypadSignal key p).env = s.env := by
  unfold State.joypadSignal State.joypadPress State.joypadRelease; split <;> (try split) <;> simp
@[simp] theorem joypadSignal_draws (s : State) (key : Byte) (p : Bool) : (s.joypadSignal key p).draws = s.draws := by
  unfold State.joypadSignal State.joypadPress State.joypadRelease; split <;> (try split) <;> simp

@[simp] theorem envAct_af (s : State) (act : EnvAction) : (s.envAct act).af = s.af := by
  cases act <;> simp [State.envAct]; split <;> rfl
@[simp] theorem envAct_bc (s : State) (act : EnvAction) : (s.envAct act).bc = s.bc := by
  cases act <;> simp [State.envAct]; split <;> rfl
@[simp] theorem envAct_de (s : State) (act : EnvAction) : (s.envAct act).de = s.de := by
  cases act <;> simp [State.envAct]; split <;> rfl
@[simp] theorem envAct_hl (s : State) (act : EnvAction) : (s.envAct act).hl = s.hl := by
  cases act <;> simp [State.envAct]; split <;> rfl
@[simp] theorem envAct_sp (s : State) (act : EnvAction) : (s.envAct act).sp = s.sp := by
  cases act <;> simp [State.envAct]; split <;> rfl
@[simp] theorem envAct_pc (s : State) (act : EnvAction) : (s.envAct act).pc = s.pc := by
  cases act <;> simp [State.envAct]; split <;> rfl
@[simp] theorem envAct_ime (s : State) (act : EnvAction) : (s.envAct act).ime = s.ime := by
  cases act <;> simp [State.envAct]; split <;> rfl
@[simp] theorem envAct_toggleArmed (s : State) (act : EnvAction) : (s.envAct act).toggleArmed = s.toggleArmed := by
  cases act <;> simp [State.envAct]; split <;> rfl
@[simp] theorem envAct_ie (s : State) (act : EnvAction) : (s.envAct act).ie = s.ie := by
  cases act <;> simp [State.envAct]; split <;> rfl
@[simp] theorem envAct_romBank (s : State) (act : EnvAction) : (s.envAct act).romBank = s.romBank := by
  cases act <;> simp [State.envAct]; split <;> rfl
@[simp] theorem envAct_joyCol (s : State) (act : EnvAction) : (s.envAct act).joyCol = s.joyCol := by
  cases act <;> simp [State.envAct]; split <;> rfl
@[simp] theorem envAct_cycles (s : State) (act : EnvAction) : (s.envAct act).cycles = s.cycles := by
  cases act <;> simp [State.envAct]; split <;> rfl
@[simp] theorem envAct_status (s : State) (act : EnvAction) : (s.envAct act).status = s.status := by
  cases act <;> simp [State.envAct]; split <;> rfl
@[simp] theorem envAct_rom (s : State) (act : EnvAction) : (s.envAct act).rom = s.rom := by
  cases act <;> simp [State.envAct]; split <;> rfl
@[simp] theorem envAct_romLen (s : State) (act : EnvAction) : (s.envAct act).romLen = s.romLen := by
  cases act <;> simp [State.envAct]; split <;> rfl
@[simp] theorem envAct_env (s : State) (act : EnvAction) : (s.envAct act).env = s.env := by
  cases act <;> simp [State.envAct]; split <;> rfl
@[simp] theorem envAct_draws (s : State) (act : EnvAction) : (s.envAct act).draws = s.draws := by
  cases act <;> simp [State.envAct]; split <;> rfl

@[simp] theorem envActs_af (s : State) (acts : List EnvAction) : (s.envActs acts).af = s.af := by
  induction acts generalizing s with
  | nil => rfl
  | cons act acts ih => simp [State.envActs, ih]
@[simp] theorem envActs_bc (s : State) (acts : List EnvAction) : (s.envActs acts).bc = s.bc := by
  induction acts generalizing s with
  | nil => rfl
  | cons act acts ih => simp [State.envActs, ih]
@[simp] theorem envActs_de (s : State) (acts : List EnvAction) : (s.envActs acts).de = s.de := by
  induction acts generalizing s with
  | nil => rfl
  | cons act acts ih => simp [State.envActs, ih]
@[simp] theorem envActs_hl (s : State) (acts : List EnvAction) : (s.envActs acts).hl = s.hl := by
  induction acts generalizing s with
  | nil => rfl
  | cons act acts ih => simp [State.envActs, ih]
@[simp] theorem envActs_sp (s : State) (acts : List EnvAction) : (s.envActs acts).sp = s.sp := by
  induction acts generalizing s with
  | nil => rfl
  | cons act acts ih => simp [State.envActs, ih]
@[simp] theorem envActs_pc (s : State) (acts : List EnvAction) : (s.envActs acts).pc = s.pc := by
  induction acts generalizing s with
  | nil => rfl
  | cons act acts ih => simp [State.envActs, ih]
@[simp] theorem envActs_ime (s : State) (acts : List EnvAction) : (s.envActs acts).ime = s.ime := by
  induction acts generalizing s with
  | nil => rfl
  | cons act acts ih => simp [State.envActs, ih]
@[simp] theorem envActs_toggleArmed (s : State) (acts : List EnvAction) : (s.envActs acts).toggleArmed = s.toggleArmed := by
  induction acts generalizing s with
  | nil => rfl
  | cons act acts ih => simp [State.envActs, ih]
@[simp] theorem envActs_ie (s : State) (acts : List EnvAction) : (s.envActs acts).ie = s.ie := by
  induction acts generalizing s with
  | nil => rfl
  | cons act acts ih => simp [State.envActs, ih]
@[simp] theorem envActs_romBank (s : State) (acts : List EnvAction) : (s.envActs acts).romBank = s.romBank := by
  induction acts generalizing s with
  | nil => rfl
  | cons act acts ih => simp [State.envActs, ih]
@[simp] theorem envActs_joyCol (s : State) (acts : List EnvAction) : (s.envActs acts).joyCol = s.joyCol := by
  induction acts generalizing s with
  | nil => rfl
  | cons act acts ih => simp [State.envActs, ih]
@[simp] theorem envActs_cycles (s : State) (acts : List EnvAction) : (s.envActs acts).cycles = s.cycles := by
  induction acts generalizing s with
  | nil => rfl
  | cons act acts ih => simp [State.envActs, ih]
@[simp] theorem envActs_status (s : State) (acts : List EnvAction) : (s.envActs acts).status = s.status := by
  induction acts generalizing s with
  | nil => rfl
  | cons act acts ih => simp [State.envActs, ih]
@[simp] theorem envActs_rom (s : State) (acts : List EnvAction) : (s.envActs acts).rom = s.rom := by
  induction acts generalizing s with
  | nil => rfl
  | cons act acts ih => simp [State.envActs, ih]
@[simp] theorem envActs_romLen (s : State) (acts : List EnvAction) : (s.envActs acts).romLen = s.romLen := by
  induction acts generalizing s with
  | nil => rfl
  | cons act acts ih => simp [State.envActs, ih]
@[simp] theorem envActs_env (s : State) (acts : List EnvAction) : (s.envActs acts).env = s.env := by
  induction acts generalizing s with
  | nil => rfl
  | cons act acts ih => simp [State.envActs, ih]
@[simp] theorem envActs_draws (s : State) (acts : List EnvAction) : (s.envActs acts).draws = s.draws := by
  induction acts generalizing s with
  | nil => rfl
  | cons act acts ih => simp [State.envActs, ih]

@[simp] theorem envTurn_env (s : State) : s.envTurn.env = s.env.tail := by
  unfold State.envTurn; split <;> simp_all
@[simp] theorem envTurn_af (s : State) : s.envTurn.af = s.af := by unfold State.envTurn; split <;> simp
@[simp] theorem envTurn_bc (s : State) : s.envTurn.bc = s.bc := by unfold State.envTurn; split <;> simp
@[simp] theorem envTurn_de (s : State) : s.envTurn.de = s.de := by unfold State.envTurn; split <;> simp
@[simp] theorem envTurn_hl (s : State) : s.envTurn.hl = s.hl := by unfold State.envTurn; split <;> simp
@[simp] theorem envTurn_sp (s : State) : s.envTurn.sp = s.sp := by unfold State.envTurn; split <;> simp
@[simp] theorem envTurn_pc (s : State) : s.envTurn.pc = s.pc := by unfold State.envTurn; split <;> simp
@[simp] theorem envTurn_ime (s : State) : s.envTurn.ime = s.ime := by unfold State.envTurn; split <;> simp
@[simp] theorem envTurn_toggleArmed (s : State) : s.envTurn.toggleArmed = s.toggleArmed := by unfold State.envTurn; split <;> simp
@[simp] theorem envTurn_ie (s : State) : s.envTurn.ie = s.ie := by unfold State.envTurn; split <;> simp
@[simp] theorem envTurn_romBank (s : State) : s.envTurn.romBank = s.romBank := by unfold State.envTurn; split <;> simp
@[simp] theorem envTurn_joyCol (s : State) : s.envTurn.joyCol = s.joyCol := by unfold State.envTurn; split <;> simp
@[simp] theorem envTurn_cycles (s : State) : s.envTurn.cycles = s.cycles := by unfold State.envTurn; split <;> simp
@[simp] theorem envTurn_status (s : State) : s.envTurn.status = s.status := by unfold State.envTurn; split <;> simp
@[simp] theorem envTurn_rom (s : State) : s.envTurn.rom = s.rom := by unfold State.envTurn; split <;> simp
@[simp] theorem envTurn_romLen (s : State) : s.envTurn.romLen = s.romLen := by unfold State.envTurn; split <;> simp
@[simp] theorem envTurn_draws (s : State) : s.envTurn.draws = s.draws := by unfold State.envTurn; split <;> simp

end Sys2Proof.Machine
end

