-- ==== Sys2Proof/Laws/Bus.lean ====
section
/-! SUPPORT. Register views and the bus: what a read gives after a write, and that every write keeps memory canonical. -/

namespace Sys2Proof.Machine

/-! ### Register views -/

@[simp] theorem reg8_setReg8_self (s : State) (r : Reg8) (v : Byte) : (s.setReg8 r v).reg8 r = v := by
  cases r <;> simp [State.setReg8, State.reg8]

theorem reg8_setReg8_ne (s : State) {r q : Reg8} (h : q ≠ r) (v : Byte) : (s.setReg8 r v).reg8 q = s.reg8 q := by
  cases r <;> cases q <;> simp_all [State.setReg8, State.reg8]

@[simp] theorem reg8_setPc (s : State) (t : Word) (r : Reg8) : (s.setPc t).reg8 r = s.reg8 r := by cases r <;> rfl
@[simp] theorem reg8_advance (s : State) (n : Word) (r : Reg8) : (s.advance n).reg8 r = s.reg8 r := by cases r <;> rfl
@[simp] theorem reg8_write8 (s : State) (a : Word) (v : Byte) (r : Reg8) : (s.write8 a v).reg8 r = s.reg8 r := by
  cases r <;> simp [State.reg8]
@[simp] theorem reg8_push16 (s : State) (w : Word) (r : Reg8) : (s.push16 w).reg8 r = s.reg8 r := by
  cases r <;> simp [State.reg8]

/-! ### Reading -/

/-- A read depends on the fields the bus routes to, and on no other. -/
theorem read8_congr {s t : State} (hm : t.mem = s.mem) (hi : t.ie = s.ie) (hb : t.romBank = s.romBank) (hc : t.joyCol = s.joyCol)
    (hr : t.joyRow = s.joyRow) (hrom : t.rom = s.rom) (hlen : t.romLen = s.romLen) (hd : t.draws = s.draws) (a : Word) :
    t.read8 a = s.read8 a := by
  unfold State.read8 State.periphRead State.joypadRead State.stored State.bankOffset State.romByte
  rw [hm, hi, hb, hc, hr, hrom, hlen, hd]

@[simp] theorem read8_setReg8 (s : State) (r : Reg8) (v : Byte) (a : Word) : (s.setReg8 r v).read8 a = s.read8 a :=
  read8_congr (by simp) (by simp) (by simp) (by simp) (by simp) (by simp) (by simp) (by simp) a
@[simp] theorem read8_setPc (s : State) (t : Word) (a : Word) : (s.setPc t).read8 a = s.read8 a := rfl
@[simp] theorem read8_advance (s : State) (n : Word) (a : Word) : (s.advance n).read8 a = s.read8 a := rfl
@[simp] theorem read8_armToggle (s : State) (a : Word) : s.armToggle.read8 a = s.read8 a := rfl
@[simp] theorem read8_raiseUndefinedOpcode (s : State) (t : Table) (k : Byte) (a : Word) :
    (s.raiseUndefinedOpcode t k).read8 a = s.read8 a := rfl
@[simp] theorem read8_addCycles (s : State) (n : Nat) (a : Word) : (s.addCycles n).read8 a = s.read8 a := rfl
@[simp] theorem read8_applyToggle (s : State) (a : Word) : s.applyToggle.read8 a = s.read8 a :=
  read8_congr (by simp) (by simp) (by simp) (by simp) (by simp) (by simp) (by simp) (by simp) a

/-- `read16` is its two bytes, the low one first (20_memory.md R69). -/
theorem read16_eq (s : State) (a : Word) : s.read16 a = mkWord (s.read8 (a + 1)) (s.read8 a) := by
  simp [State.read16, State.busRead16]

@[simp] theorem busRead16_snd (s : State) (a : Word) : (s.busRead16 a).2 = s := by
  simp [State.busRead16]

/-- The read of a plain address gives its storage byte (R50). -/
theorem read8_plain (s : State) {a : Word} (h : isPlain a = true) : s.read8 a = s.stored a := by
  unfold isPlain at h
  unfold State.read8
  split at h <;> simp_all

/-- The write of a plain address goes to its storage byte (R51). -/
theorem write8_plain (s : State) {a : Word} (v : Byte) (h : isPlain a = true) : s.write8 a v = s.store a v := by
  unfold isPlain at h
  unfold State.write8
  split at h <;> simp_all

/-! ### Storage keys -/

/-- A region's address range, each bound of R48 by its number. -/
theorem region_bounds (a : Word) :
    match regionOf a with
    | .romFixed => a.toNat ≤ 0x3FFF
    | .romSwitch => 0x4000 ≤ a.toNat ∧ a.toNat ≤ 0x7FFF
    | .vram => 0x8000 ≤ a.toNat ∧ a.toNat ≤ 0x9FFF
    | .eram => 0xA000 ≤ a.toNat ∧ a.toNat ≤ 0xBFFF
    | .wram => 0xC000 ≤ a.toNat ∧ a.toNat ≤ 0xDFFF
    | .echo => 0xE000 ≤ a.toNat ∧ a.toNat ≤ 0xFDFF
    | .oam => 0xFE00 ≤ a.toNat ∧ a.toNat ≤ 0xFE9F
    | .unusable => 0xFEA0 ≤ a.toNat ∧ a.toNat ≤ 0xFEFF
    | .io => 0xFF00 ≤ a.toNat ∧ a.toNat ≤ 0xFF7F
    | .hram => 0xFF80 ≤ a.toNat ∧ a.toNat ≤ 0xFFFE
    | .ie => a.toNat = 0xFFFF := by
  have hlt := a.isLt
  generalize hr : regionOf a = r
  unfold regionOf at hr
  by_cases h1 : a.toNat ≤ 0x3FFF
  · rw [if_pos h1] at hr; subst hr; exact h1
  rw [if_neg h1] at hr
  by_cases h2 : a.toNat ≤ 0x7FFF
  · rw [if_pos h2] at hr; subst hr; exact ⟨by omega, h2⟩
  rw [if_neg h2] at hr
  by_cases h3 : a.toNat ≤ 0x9FFF
  · rw [if_pos h3] at hr; subst hr; exact ⟨by omega, h3⟩
  rw [if_neg h3] at hr
  by_cases h4 : a.toNat ≤ 0xBFFF
  · rw [if_pos h4] at hr; subst hr; exact ⟨by omega, h4⟩
  rw [if_neg h4] at hr
  by_cases h5 : a.toNat ≤ 0xDFFF
  · rw [if_pos h5] at hr; subst hr; exact ⟨by omega, h5⟩
  rw [if_neg h5] at hr
  by_cases h6 : a.toNat ≤ 0xFDFF
  · rw [if_pos h6] at hr; subst hr; exact ⟨by omega, h6⟩
  rw [if_neg h6] at hr
  by_cases h7 : a.toNat ≤ 0xFE9F
  · rw [if_pos h7] at hr; subst hr; exact ⟨by omega, h7⟩
  rw [if_neg h7] at hr
  by_cases h8 : a.toNat ≤ 0xFEFF
  · rw [if_pos h8] at hr; subst hr; exact ⟨by omega, h8⟩
  rw [if_neg h8] at hr
  by_cases h9 : a.toNat ≤ 0xFF7F
  · rw [if_pos h9] at hr; subst hr; exact ⟨by omega, h9⟩
  rw [if_neg h9] at hr
  by_cases h10 : a.toNat ≤ 0xFFFE
  · rw [if_pos h10] at hr; subst hr; exact ⟨by omega, h10⟩
  rw [if_neg h10] at hr; subst hr; show a.toNat = 0xFFFF; omega

/-- An address outside every other region's range is in region `r`. -/
theorem regionOf_of_bounds {a : Word} {r : Region}
    (h : ∀ q, q ≠ r → ¬ match q with
      | .romFixed => a.toNat ≤ 0x3FFF
      | .romSwitch => 0x4000 ≤ a.toNat ∧ a.toNat ≤ 0x7FFF
      | .vram => 0x8000 ≤ a.toNat ∧ a.toNat ≤ 0x9FFF
      | .eram => 0xA000 ≤ a.toNat ∧ a.toNat ≤ 0xBFFF
      | .wram => 0xC000 ≤ a.toNat ∧ a.toNat ≤ 0xDFFF
      | .echo => 0xE000 ≤ a.toNat ∧ a.toNat ≤ 0xFDFF
      | .oam => 0xFE00 ≤ a.toNat ∧ a.toNat ≤ 0xFE9F
      | .unusable => 0xFEA0 ≤ a.toNat ∧ a.toNat ≤ 0xFEFF
      | .io => 0xFF00 ≤ a.toNat ∧ a.toNat ≤ 0xFF7F
      | .hram => 0xFF80 ≤ a.toNat ∧ a.toNat ≤ 0xFFFE
      | .ie => a.toNat = 0xFFFF) : regionOf a = r := by
  by_contra hne
  exact h _ hne (region_bounds a)

/-! The region of an address from its range. -/

theorem regionOf_romFixed {a : Word} (h : a.toNat ≤ 0x3FFF) : regionOf a = .romFixed :=
  regionOf_of_bounds fun q hq => by cases q <;> simp_all <;> omega

theorem regionOf_romSwitch {a : Word} (h : 0x4000 ≤ a.toNat) (h' : a.toNat ≤ 0x7FFF) : regionOf a = .romSwitch :=
  regionOf_of_bounds fun q hq => by cases q <;> simp_all <;> omega

theorem regionOf_vram {a : Word} (h : 0x8000 ≤ a.toNat) (h' : a.toNat ≤ 0x9FFF) : regionOf a = .vram :=
  regionOf_of_bounds fun q hq => by cases q <;> simp_all <;> omega

theorem regionOf_eram {a : Word} (h : 0xA000 ≤ a.toNat) (h' : a.toNat ≤ 0xBFFF) : regionOf a = .eram :=
  regionOf_of_bounds fun q hq => by cases q <;> simp_all <;> omega

theorem regionOf_wram {a : Word} (h : 0xC000 ≤ a.toNat) (h' : a.toNat ≤ 0xDFFF) : regionOf a = .wram :=
  regionOf_of_bounds fun q hq => by cases q <;> simp_all <;> omega

theorem regionOf_echo {a : Word} (h : 0xE000 ≤ a.toNat) (h' : a.toNat ≤ 0xFDFF) : regionOf a = .echo :=
  regionOf_of_bounds fun q hq => by cases q <;> simp_all <;> omega

theorem regionOf_oam {a : Word} (h : 0xFE00 ≤ a.toNat) (h' : a.toNat ≤ 0xFE9F) : regionOf a = .oam :=
  regionOf_of_bounds fun q hq => by cases q <;> simp_all <;> omega

theorem regionOf_unusable {a : Word} (h : 0xFEA0 ≤ a.toNat) (h' : a.toNat ≤ 0xFEFF) : regionOf a = .unusable :=
  regionOf_of_bounds fun q hq => by cases q <;> simp_all <;> omega

theorem regionOf_io {a : Word} (h : 0xFF00 ≤ a.toNat) (h' : a.toNat ≤ 0xFF7F) : regionOf a = .io :=
  regionOf_of_bounds fun q hq => by cases q <;> simp_all <;> omega

theorem regionOf_hram {a : Word} (h : 0xFF80 ≤ a.toNat) (h' : a.toNat ≤ 0xFFFE) : regionOf a = .hram :=
  regionOf_of_bounds fun q hq => by cases q <;> simp_all <;> omega

theorem regionOf_ie {a : Word} (h : a.toNat = 0xFFFF) : regionOf a = .ie :=
  regionOf_of_bounds fun q hq => by cases q <;> simp_all

/-- Only storage addresses are ever written into `mem`. -/
theorem isStorageKey_of_region {a : Word}
    (h : regionOf a = .vram ∨ regionOf a = .eram ∨ regionOf a = .wram ∨ regionOf a = .echo ∨ regionOf a = .oam ∨
      regionOf a = .io ∨ regionOf a = .hram) : isStorageKey (storageKey a) = true := by
  have hb := region_bounds a
  rcases h with h | h | h | h | h | h | h <;> simp only [h] at hb <;> simp [storageKey, isStorageKey, h] <;> omega

theorem isStorageKey_if : isStorageKey (storageKey 0xFF0F) = true := by decide

/-! ### After a write -/

theorem stored_store_self (s : State) {a b : Word} (v : Byte) (hw : Memory.wf s.mem = true) (h : storageKey b = storageKey a) :
    (s.store a v).stored b = v := by
  simp [State.stored, h, Memory.read_write_eq _ _ hw]

theorem stored_store_ne (s : State) {a b : Word} (v : Byte) (h : storageKey b ≠ storageKey a) :
    (s.store a v).stored b = s.stored b := by
  simp [State.stored, Memory.read_write_ne h]

/-- A byte written to a plain address is read back, at every address that names the same byte (R59, R78). -/
theorem read8_write8_self (s : State) {a b : Word} (v : Byte) (hw : Memory.wf s.mem = true) (ha : isPlain a = true)
    (hb : isPlain b = true) (h : storageKey b = storageKey a) : (s.write8 a v).read8 b = v := by
  rw [write8_plain s v ha, read8_plain _ hb, stored_store_self s v hw h]

/-- The joypad's register is the one registered peripheral (R63). -/
theorem periphSet_contains_iff (a : Word) : periphSet.contains a = true ↔ a = 0xFF00 := by
  simp [periphSet]

/-- Two states that give the same bytes for ROM, storage, the joypad and IE give the same read. -/
theorem read8_of_parts {s t : State} {b : Word} (hfix : regionOf b = .romFixed → t.romByte b.toNat = s.romByte b.toNat)
    (hsw : regionOf b = .romSwitch → t.romByte (t.bankOffset b) = s.romByte (s.bankOffset b))
    (hst : t.stored b = s.stored b) (hjoy : b = 0xFF00 → t.joypadRead = s.joypadRead)
    (hie : regionOf b = .ie → t.ie = s.ie) : t.read8 b = s.read8 b := by
  unfold State.read8
  cases hr : regionOf b <;> simp only
  · exact hfix hr
  · exact hsw hr
  · exact hst
  · exact hst
  · exact hst
  · exact hst
  · exact hst
  · by_cases hp : periphSet.contains b = true
    · have hb := (periphSet_contains_iff b).mp hp
      rw [if_pos hp, if_pos hp]
      unfold State.periphRead
      rw [if_pos hb, if_pos hb]
      exact hjoy hb
    · rw [if_neg hp, if_neg hp]; exact hst
  · exact hst
  · exact hie hr

/-- A storage write changes no read of another byte. -/
theorem read8_store_ne (s : State) {a b : Word} (v : Byte) (h : storageKey b ≠ storageKey a) :
    (s.store a v).read8 b = s.read8 b :=
  read8_of_parts (fun _ => rfl) (fun _ => rfl) (stored_store_ne s v h) (fun _ => rfl) (fun _ => rfl)

/-- Where a store does not reach, reads are as before (R54, R55, R59, R68). -/
theorem read8_write8_of_not_reached (s : State) {a b : Word} (v : Byte) (h : storeReaches a b = false) :
    (s.write8 a v).read8 b = s.read8 b := by
  have hbank : (isBankSelect a && regionOf b == .romSwitch) = false →
      (if isBankSelect a then { s with romBank := newBank v s.romBank } else s).read8 b = s.read8 b := by
    intro hh
    split
    · next hs =>
      simp only [hs, Bool.true_and, beq_eq_false_iff_ne] at hh
      exact read8_of_parts (fun _ => rfl) (fun e => absurd e hh) rfl (fun _ => rfl) (fun _ => rfl)
    · rfl
  have hb := region_bounds a
  unfold storeReaches at h
  unfold State.write8
  generalize hr : regionOf a = r at h hb ⊢
  have hkey : (storageKey a == storageKey b) = false → storageKey b ≠ storageKey a := fun hk e => by simp [e] at hk
  cases r <;> simp only at h hb ⊢
  · exact hbank h
  · exact hbank h
  · exact read8_store_ne s v (hkey h)
  · exact read8_store_ne s v (hkey h)
  · exact read8_store_ne s v (hkey h)
  · exact read8_store_ne s v (hkey h)
  · exact read8_store_ne s v (hkey h)
  · split
    · next hp =>
      have ha := (periphSet_contains_iff a).mp hp
      have hne : b ≠ 0xFF00 := fun e => hkey h (by rw [e, ha])
      unfold State.periphWrite
      rw [if_pos ha]
      exact read8_of_parts (fun _ => rfl) (fun _ => rfl) rfl (fun e => absurd e hne) (fun _ => rfl)
    · exact read8_store_ne s v (hkey h)
  · exact read8_store_ne s v (hkey h)
  · refine read8_of_parts (fun _ => rfl) (fun _ => rfl) rfl (fun _ => rfl) (fun hie => ?_)
    have hbb := region_bounds b
    simp only [hie] at hbb
    exact absurd (by rw [BitVec.eq_of_toNat_eq (hbb.trans hb.symm)]) (hkey h)

/-- No address but 0xFF0F names IF's storage byte. -/
theorem storageKey_ne_if {a : Word} (h : a ≠ 0xFF0F) : storageKey a ≠ storageKey 0xFF0F := by
  intro e
  have ha := region_bounds a
  have hne : a.toNat ≠ 0xFF0F := fun h' => h (BitVec.eq_of_toNat_eq h')
  rw [show storageKey 0xFF0F = 0xFF0F by decide] at e
  unfold storageKey at e
  cases hr : regionOf a <;> simp only [hr] at e ha <;> omega

/-- A bus write to any other address leaves IF. -/
theorem ifReg_write8_ne (s : State) {a : Word} (v : Byte) (h : a ≠ 0xFF0F) : (s.write8 a v).ifReg = s.ifReg := by
  have hs : (s.store a v).ifReg = s.ifReg := stored_store_ne s v (storageKey_ne_if h).symm
  unfold State.write8 State.periphWrite
  (repeat' split) <;> first | rfl | exact hs

/-- A byte written to IF reads back. -/
theorem ifReg_setIf {s : State} (v : Byte) (h : Memory.wf s.mem = true) : (s.setIf v).ifReg = v := stored_store_self s v h rfl

/-- Service clears its own bit of IF alone, where the push does not write IF (spec/60_exceptions.md R142). -/
theorem ifReg_serviceInterrupt {s : State} (src : Source) (hw : Memory.wf s.mem = true) (h2 : s.sp - 2 ≠ 0xFF0F)
    (h1 : s.sp - 1 ≠ 0xFF0F) : (s.serviceInterrupt src).ifReg = s.ifReg &&& ~~~src.mask := by
  have hsp : s.sp - 2 + 1 = s.sp - 1 := by bv_omega
  refine Eq.trans (ifReg_write8_ne _ _ (show s.sp - 2 + 1 ≠ 0xFF0F from hsp ▸ h1)) ?_
  refine Eq.trans (ifReg_write8_ne _ _ h2) ?_
  exact ifReg_setIf _ hw

/-! ### The canonical form -/

/-- `mem` is canonical and lists storage addresses only. -/
def memOk (m : Memory) : Prop := Memory.wf m = true ∧ ∀ c ∈ m, isStorageKey c.1 = true

theorem memOk_write {m : Memory} {k : Nat} (v : Byte) (h : memOk m) (hk : isStorageKey k = true) : memOk (Memory.write m k v) := by
  refine ⟨Memory.wf_write k v h.1, fun c hc => ?_⟩
  rcases Memory.mem_write hc with e | hc
  · rw [e]; exact hk
  · exact h.2 c hc

theorem memOk_setIf {s : State} (v : Byte) (h : memOk s.mem) : memOk (s.setIf v).mem := memOk_write v h isStorageKey_if

/-- A byte write keeps `mem` canonical and over storage addresses. -/
theorem memOk_write8 {s : State} (a : Word) (v : Byte) (h : memOk s.mem) : memOk (s.write8 a v).mem := by
  have hs : ∀ hr : regionOf a = .vram ∨ regionOf a = .eram ∨ regionOf a = .wram ∨ regionOf a = .echo ∨ regionOf a = .oam ∨
      regionOf a = .io ∨ regionOf a = .hram, memOk (s.store a v).mem := fun hr => memOk_write v h (isStorageKey_of_region hr)
  unfold State.write8 State.periphWrite
  cases hr : regionOf a <;> simp only [hr] at hs ⊢ <;> first | (exact hs (by simp)) | exact h | skip
  all_goals split
  all_goals first | exact h | exact hs (by simp) | skip
  split <;> exact h

theorem memOk_write16 {s : State} (a w : Word) (h : memOk s.mem) : memOk (s.write16 a w).mem :=
  memOk_write8 _ _ (memOk_write8 _ _ h)

theorem memOk_push16 {s : State} (w : Word) (h : memOk s.mem) : memOk (s.push16 w).mem :=
  memOk_write16 (s := { s with sp := s.sp - 2 }) _ _ h

theorem memOk_serviceInterrupt {s : State} (src : Source) (h : memOk s.mem) : memOk (s.serviceInterrupt src).mem :=
  memOk_push16 (s := { s.setIf (s.ifReg &&& ~~~src.mask) with ime := false }) _ (memOk_setIf _ h)

theorem memOk_pollAndDispatch {s : State} (h : memOk s.mem) : memOk s.pollAndDispatch.mem := by
  rcases pollAndDispatch_cases s with e | ⟨src, -, -, e⟩ <;> rw [e]
  · exact h
  · exact memOk_serviceInterrupt src h

theorem isStorageKey_envWritable {a : Word} (h : envWritable a = true) : isStorageKey (storageKey a) = true := by
  refine isStorageKey_of_region ?_
  simp only [envWritable, Bool.and_eq_true, decide_eq_true_eq] at h
  have : regionOf a = .io := by
    unfold regionOf
    (repeat' split) <;> first | rfl | omega
  simp [this]

theorem memOk_envAct {s : State} (act : EnvAction) (h : memOk s.mem) : memOk (s.envAct act).mem := by
  cases act with
  | signalInterrupt src => exact memOk_setIf _ h
  | joypadSignal key p =>
    show memOk (s.joypadSignal key p).mem
    unfold State.joypadSignal
    split
    · split
      · exact h
      · exact memOk_setIf (s := { s with joyRow := (s.joyRow ||| (key &&& 0x0F)) &&& 0x0F }) _ h
    · exact h
  | writeIo a v =>
    show memOk (if envWritable a then s.store a v else s).mem
    split
    · next ha => exact memOk_write v h (isStorageKey_envWritable ha)
    · exact h
  | observe => exact h
  | setHaltStop => exact h

theorem memOk_envActs {s : State} (acts : List EnvAction) (h : memOk s.mem) : memOk (s.envActs acts).mem := by
  induction acts generalizing s with
  | nil => exact h
  | cons act acts ih => exact ih (memOk_envAct act h)

theorem memOk_envTurn {s : State} (h : memOk s.mem) : memOk s.envTurn.mem := by
  unfold State.envTurn
  split
  · exact h
  · exact memOk_envActs _ h

end Sys2Proof.Machine
end

