-- ==== Sys2Proof/Laws/Decode.lean ====
section
/-! SUPPORT. The primary table against the bound bytes of spec/30_encoding.md R91. -/

namespace Sys2Proof

/-- How many bytes an entry reads, its opcode byte among them (R83). -/
def Form.length : Form → Nat
  | .op _ => 1
  | .opN _ => 2
  | .opNN _ => 3

/-- The table's rows are exactly the bytes that R91 binds and the prefix. -/
theorem findRow_isSome (op : Byte) : (findRow primaryRows op).isSome = boundByte op := by
  revert op
  decide +kernel

/-- No byte keys two rows (R88). -/
theorem primaryRows_nodup : (primaryRows.map Prod.fst).Nodup := by decide +kernel

/-- The primary table binds nothing to an unbound byte (R93). -/
theorem formOf_unbound {op : Byte} (h : WellFormed (.undefinedOpcode op)) : formOf op = .op (.undefinedOpcode op) := by
  have hb : boundByte op = false := by simpa [WellFormed, Instr.wellFormed] using h
  have hn : findRow primaryRows op = none := by
    rw [← findRow_isSome] at hb
    simpa using hb
  unfold formOf
  rw [hn]

end Sys2Proof
end

