-- ==== Sys2Proof/Laws/Handlers.lean ====
section
/-! SUPPORT. The operations that several handlers share: what each leaves alone and what it writes. -/

namespace Sys2Proof.Machine

/-! ### LD r,r' (spec/43_loads.md R120) -/

@[simp] theorem loadReg_pc (dst src : Reg8) (s : State) : (loadReg dst src s).pc = s.pc + 1 := by simp [loadReg]
@[simp] theorem loadReg_dst (dst src : Reg8) (s : State) : (loadReg dst src s).reg8 dst = s.reg8 src := by simp [loadReg]
theorem loadReg_reg8_ne {dst q : Reg8} (h : q ≠ dst) (src : Reg8) (s : State) : (loadReg dst src s).reg8 q = s.reg8 q := by
  simp [loadReg, reg8_setReg8_ne s h]
@[simp] theorem loadReg_read8 (dst src : Reg8) (s : State) (a : Word) : (loadReg dst src s).read8 a = s.read8 a := by simp [loadReg]
@[simp] theorem loadReg_sp (dst src : Reg8) (s : State) : (loadReg dst src s).sp = s.sp := by simp [loadReg]
@[simp] theorem loadReg_ime (dst src : Reg8) (s : State) : (loadReg dst src s).ime = s.ime := by simp [loadReg]
@[simp] theorem loadReg_toggleArmed (dst src : Reg8) (s : State) : (loadReg dst src s).toggleArmed = s.toggleArmed := by simp [loadReg]
@[simp] theorem loadReg_mem (dst src : Reg8) (s : State) : (loadReg dst src s).mem = s.mem := by simp [loadReg]
@[simp] theorem loadReg_ie (dst src : Reg8) (s : State) : (loadReg dst src s).ie = s.ie := by simp [loadReg]
@[simp] theorem loadReg_romBank (dst src : Reg8) (s : State) : (loadReg dst src s).romBank = s.romBank := by simp [loadReg]
@[simp] theorem loadReg_joyCol (dst src : Reg8) (s : State) : (loadReg dst src s).joyCol = s.joyCol := by simp [loadReg]
@[simp] theorem loadReg_joyRow (dst src : Reg8) (s : State) : (loadReg dst src s).joyRow = s.joyRow := by simp [loadReg]
@[simp] theorem loadReg_cycles (dst src : Reg8) (s : State) : (loadReg dst src s).cycles = s.cycles := by simp [loadReg]
@[simp] theorem loadReg_haltStop (dst src : Reg8) (s : State) : (loadReg dst src s).haltStop = s.haltStop := by simp [loadReg]
@[simp] theorem loadReg_status (dst src : Reg8) (s : State) : (loadReg dst src s).status = s.status := by simp [loadReg]
@[simp] theorem loadReg_rom (dst src : Reg8) (s : State) : (loadReg dst src s).rom = s.rom := by simp [loadReg]
@[simp] theorem loadReg_romLen (dst src : Reg8) (s : State) : (loadReg dst src s).romLen = s.romLen := by simp [loadReg]
@[simp] theorem loadReg_env (dst src : Reg8) (s : State) : (loadReg dst src s).env = s.env := by simp [loadReg]
@[simp] theorem loadReg_draws (dst src : Reg8) (s : State) : (loadReg dst src s).draws = s.draws := by simp [loadReg]

/-! ### XOR r (spec/44_alu.md R124) -/

@[simp] theorem xorReg_pc (r : Reg8) (s : State) : (xorReg r s).pc = s.pc + 1 := by simp [xorReg]
@[simp] theorem xorReg_a (r : Reg8) (s : State) : (xorReg r s).reg8 .a = s.reg8 .a ^^^ s.reg8 r := by
  simp [xorReg, reg8_setReg8_ne]
@[simp] theorem xorReg_f (r : Reg8) (s : State) : (xorReg r s).reg8 .f = xorFlags (s.reg8 .a ^^^ s.reg8 r) := by simp [xorReg]
theorem xorReg_reg8_ne {q : Reg8} (ha : q ≠ .a) (hf : q ≠ .f) (r : Reg8) (s : State) : (xorReg r s).reg8 q = s.reg8 q := by
  simp [xorReg, reg8_setReg8_ne _ ha, reg8_setReg8_ne _ hf]
@[simp] theorem xorReg_read8 (r : Reg8) (s : State) (a : Word) : (xorReg r s).read8 a = s.read8 a := by simp [xorReg]
@[simp] theorem xorReg_sp (r : Reg8) (s : State) : (xorReg r s).sp = s.sp := by simp [xorReg]
@[simp] theorem xorReg_ime (r : Reg8) (s : State) : (xorReg r s).ime = s.ime := by simp [xorReg]
@[simp] theorem xorReg_toggleArmed (r : Reg8) (s : State) : (xorReg r s).toggleArmed = s.toggleArmed := by simp [xorReg]
@[simp] theorem xorReg_mem (r : Reg8) (s : State) : (xorReg r s).mem = s.mem := by simp [xorReg]
@[simp] theorem xorReg_ie (r : Reg8) (s : State) : (xorReg r s).ie = s.ie := by simp [xorReg]
@[simp] theorem xorReg_romBank (r : Reg8) (s : State) : (xorReg r s).romBank = s.romBank := by simp [xorReg]
@[simp] theorem xorReg_joyCol (r : Reg8) (s : State) : (xorReg r s).joyCol = s.joyCol := by simp [xorReg]
@[simp] theorem xorReg_joyRow (r : Reg8) (s : State) : (xorReg r s).joyRow = s.joyRow := by simp [xorReg]
@[simp] theorem xorReg_cycles (r : Reg8) (s : State) : (xorReg r s).cycles = s.cycles := by simp [xorReg]
@[simp] theorem xorReg_haltStop (r : Reg8) (s : State) : (xorReg r s).haltStop = s.haltStop := by simp [xorReg]
@[simp] theorem xorReg_status (r : Reg8) (s : State) : (xorReg r s).status = s.status := by simp [xorReg]
@[simp] theorem xorReg_rom (r : Reg8) (s : State) : (xorReg r s).rom = s.rom := by simp [xorReg]
@[simp] theorem xorReg_romLen (r : Reg8) (s : State) : (xorReg r s).romLen = s.romLen := by simp [xorReg]
@[simp] theorem xorReg_env (r : Reg8) (s : State) : (xorReg r s).env = s.env := by simp [xorReg]
@[simp] theorem xorReg_draws (r : Reg8) (s : State) : (xorReg r s).draws = s.draws := by simp [xorReg]

/-! ### Relative jumps (spec/42_control.md R113 to R115) -/

theorem relativeJump_eq (taken : Bool) (e : Byte) (s : State) :
    relativeJump taken e s = s.setPc (if taken then jrTarget s.pc e else s.pc + 2) := by
  cases taken <;> rfl
@[simp] theorem relativeJump_reg8 (taken : Bool) (e : Byte) (s : State) (r : Reg8) : (relativeJump taken e s).reg8 r = s.reg8 r := by
  simp [relativeJump_eq]
@[simp] theorem relativeJump_read8 (taken : Bool) (e : Byte) (s : State) (a : Word) :
    (relativeJump taken e s).read8 a = s.read8 a := by
  simp [relativeJump_eq]
@[simp] theorem relativeJump_af (taken : Bool) (e : Byte) (s : State) : (relativeJump taken e s).af = s.af := by simp [relativeJump_eq]
@[simp] theorem relativeJump_bc (taken : Bool) (e : Byte) (s : State) : (relativeJump taken e s).bc = s.bc := by simp [relativeJump_eq]
@[simp] theorem relativeJump_de (taken : Bool) (e : Byte) (s : State) : (relativeJump taken e s).de = s.de := by simp [relativeJump_eq]
@[simp] theorem relativeJump_hl (taken : Bool) (e : Byte) (s : State) : (relativeJump taken e s).hl = s.hl := by simp [relativeJump_eq]
@[simp] theorem relativeJump_sp (taken : Bool) (e : Byte) (s : State) : (relativeJump taken e s).sp = s.sp := by simp [relativeJump_eq]
@[simp] theorem relativeJump_ime (taken : Bool) (e : Byte) (s : State) : (relativeJump taken e s).ime = s.ime := by simp [relativeJump_eq]
@[simp] theorem relativeJump_toggleArmed (taken : Bool) (e : Byte) (s : State) : (relativeJump taken e s).toggleArmed = s.toggleArmed := by simp [relativeJump_eq]
@[simp] theorem relativeJump_mem (taken : Bool) (e : Byte) (s : State) : (relativeJump taken e s).mem = s.mem := by simp [relativeJump_eq]
@[simp] theorem relativeJump_ie (taken : Bool) (e : Byte) (s : State) : (relativeJump taken e s).ie = s.ie := by simp [relativeJump_eq]
@[simp] theorem relativeJump_romBank (taken : Bool) (e : Byte) (s : State) : (relativeJump taken e s).romBank = s.romBank := by simp [relativeJump_eq]
@[simp] theorem relativeJump_joyCol (taken : Bool) (e : Byte) (s : State) : (relativeJump taken e s).joyCol = s.joyCol := by simp [relativeJump_eq]
@[simp] theorem relativeJump_joyRow (taken : Bool) (e : Byte) (s : State) : (relativeJump taken e s).joyRow = s.joyRow := by simp [relativeJump_eq]
@[simp] theorem relativeJump_cycles (taken : Bool) (e : Byte) (s : State) : (relativeJump taken e s).cycles = s.cycles := by simp [relativeJump_eq]
@[simp] theorem relativeJump_haltStop (taken : Bool) (e : Byte) (s : State) : (relativeJump taken e s).haltStop = s.haltStop := by simp [relativeJump_eq]
@[simp] theorem relativeJump_status (taken : Bool) (e : Byte) (s : State) : (relativeJump taken e s).status = s.status := by simp [relativeJump_eq]
@[simp] theorem relativeJump_rom (taken : Bool) (e : Byte) (s : State) : (relativeJump taken e s).rom = s.rom := by simp [relativeJump_eq]
@[simp] theorem relativeJump_romLen (taken : Bool) (e : Byte) (s : State) : (relativeJump taken e s).romLen = s.romLen := by simp [relativeJump_eq]
@[simp] theorem relativeJump_env (taken : Bool) (e : Byte) (s : State) : (relativeJump taken e s).env = s.env := by simp [relativeJump_eq]
@[simp] theorem relativeJump_draws (taken : Bool) (e : Byte) (s : State) : (relativeJump taken e s).draws = s.draws := by simp [relativeJump_eq]

/-! ### One view read as another's frame -/

@[simp] theorem reg8_armToggle (s : State) (r : Reg8) : s.armToggle.reg8 r = s.reg8 r := by cases r <;> rfl
@[simp] theorem reg8_raiseUndefinedOpcode (s : State) (t : Table) (k : Byte) (r : Reg8) :
    (s.raiseUndefinedOpcode t k).reg8 r = s.reg8 r := by cases r <;> rfl

end Sys2Proof.Machine
end

