-- ==== Sys2Proof/Laws/PerInstr.lean ====
section
/-! SUPPORT. Statements made per instruction, about the instruction as syntax. -/

namespace Sys2Proof.Laws.LengthByFirstByte

/-- The first byte alone gives an instruction's length: the prefix's is its own and its key's, since the secondary table binds
nothing (30_encoding.md R84, R90). -/
def Statement (i : Instr) : Prop := WellFormed i → (formOf ((encode i).headD 0)).length = i.length

theorem nop : Statement .nop := fun _ => rfl
theorem jr (e : Byte) : Statement (.jr e) := fun _ => rfl
theorem jrNz (e : Byte) : Statement (.jrNz e) := fun _ => rfl
theorem jrZ (e : Byte) : Statement (.jrZ e) := fun _ => rfl
theorem ldAN (n : Byte) : Statement (.ldAN n) := fun _ => rfl
theorem ldBB : Statement .ldBB := fun _ => rfl
theorem ldBC : Statement .ldBC := fun _ => rfl
theorem ldBD : Statement .ldBD := fun _ => rfl
theorem ldBE : Statement .ldBE := fun _ => rfl
theorem ldBH : Statement .ldBH := fun _ => rfl
theorem ldBL : Statement .ldBL := fun _ => rfl
theorem ldBA : Statement .ldBA := fun _ => rfl
theorem ldCB : Statement .ldCB := fun _ => rfl
theorem ldCC : Statement .ldCC := fun _ => rfl
theorem ldCD : Statement .ldCD := fun _ => rfl
theorem ldCE : Statement .ldCE := fun _ => rfl
theorem ldCH : Statement .ldCH := fun _ => rfl
theorem ldCL : Statement .ldCL := fun _ => rfl
theorem ldCA : Statement .ldCA := fun _ => rfl
theorem ldDB : Statement .ldDB := fun _ => rfl
theorem ldDC : Statement .ldDC := fun _ => rfl
theorem ldDD : Statement .ldDD := fun _ => rfl
theorem ldDE : Statement .ldDE := fun _ => rfl
theorem ldDH : Statement .ldDH := fun _ => rfl
theorem ldDL : Statement .ldDL := fun _ => rfl
theorem ldDA : Statement .ldDA := fun _ => rfl
theorem ldEB : Statement .ldEB := fun _ => rfl
theorem ldEC : Statement .ldEC := fun _ => rfl
theorem ldED : Statement .ldED := fun _ => rfl
theorem ldEE : Statement .ldEE := fun _ => rfl
theorem ldEH : Statement .ldEH := fun _ => rfl
theorem ldEL : Statement .ldEL := fun _ => rfl
theorem ldEA : Statement .ldEA := fun _ => rfl
theorem ldHB : Statement .ldHB := fun _ => rfl
theorem ldHC : Statement .ldHC := fun _ => rfl
theorem ldHD : Statement .ldHD := fun _ => rfl
theorem ldHE : Statement .ldHE := fun _ => rfl
theorem ldHH : Statement .ldHH := fun _ => rfl
theorem ldHL : Statement .ldHL := fun _ => rfl
theorem ldHA : Statement .ldHA := fun _ => rfl
theorem ldLB : Statement .ldLB := fun _ => rfl
theorem ldLC : Statement .ldLC := fun _ => rfl
theorem ldLD : Statement .ldLD := fun _ => rfl
theorem ldLE : Statement .ldLE := fun _ => rfl
theorem ldLH : Statement .ldLH := fun _ => rfl
theorem ldLL : Statement .ldLL := fun _ => rfl
theorem ldLA : Statement .ldLA := fun _ => rfl
theorem ldAB : Statement .ldAB := fun _ => rfl
theorem ldAC : Statement .ldAC := fun _ => rfl
theorem ldAD : Statement .ldAD := fun _ => rfl
theorem ldAE : Statement .ldAE := fun _ => rfl
theorem ldAH : Statement .ldAH := fun _ => rfl
theorem ldAL : Statement .ldAL := fun _ => rfl
theorem ldAA : Statement .ldAA := fun _ => rfl
theorem xorB : Statement .xorB := fun _ => rfl
theorem xorC : Statement .xorC := fun _ => rfl
theorem xorD : Statement .xorD := fun _ => rfl
theorem xorE : Statement .xorE := fun _ => rfl
theorem xorH : Statement .xorH := fun _ => rfl
theorem xorL : Statement .xorL := fun _ => rfl
theorem xorA : Statement .xorA := fun _ => rfl
theorem jp (nn : Word) : Statement (.jp nn) := fun _ => rfl
theorem call (nn : Word) : Statement (.call nn) := fun _ => rfl
theorem ldhNA (n : Byte) : Statement (.ldhNA n) := fun _ => rfl
theorem ldNnA (nn : Word) : Statement (.ldNnA nn) := fun _ => rfl
theorem ldhAN (n : Byte) : Statement (.ldhAN n) := fun _ => rfl
theorem di : Statement .di := fun _ => rfl
theorem ei : Statement .ei := fun _ => rfl
theorem cp (n : Byte) : Statement (.cp n) := fun _ => rfl
theorem prefixCb (op2 : Byte) : Statement (.prefixCb op2) := fun _ => rfl
theorem undefinedOpcode (op : Byte) : Statement (.undefinedOpcode op) := by
  intro h
  show (formOf op).length = 1
  rw [formOf_unbound h]
  rfl

end Sys2Proof.Laws.LengthByFirstByte
end

