-- ==== Sys2Proof/Laws/Step.lean ====
section
/-! SUPPORT. Fetching, the stages after the handler, and the step. -/

namespace Sys2Proof.Machine

/-- The three bytes from `a` on, as a fetch there reads them. -/
def State.bytesAt (s : State) (a : Word) : List Byte := [s.read8 a, s.read8 (a + 1), s.read8 (a + 2)]

/-- Fetching changes nothing under the default `PeriphSet`. -/
@[simp] theorem fetchInstr_snd (s : State) : s.fetchInstr.2 = s := by
  unfold State.fetchInstr
  simp only
  split <;> simp

/-- A fetch gives the instruction that the bytes at `pc` decode to. -/
theorem fetchInstr_of_decode {s : State} {i : Instr} {rest : List Byte} (h : decode (s.bytesAt s.pc) = .ok (i, rest)) :
    s.fetchInstr.1 = i := by
  have h2 : s.pc + 1 + 1 = s.pc + 2 := by rw [BitVec.add_assoc]; rfl
  simp only [State.bytesAt, decode] at h
  simp only [State.fetchInstr, noteRead_eq, read16_eq, h2]
  cases hf : formOf (s.read8 s.pc) <;> simp only [hf, Except.ok.injEq, Prod.mk.injEq] at h ⊢ <;> exact h.1

/-- `execute()` after its fetch is read: the handler of the fetched instruction, then stages 6 and 7. -/
theorem execute_eq (s : State) :
    s.execute = match exec s.pollAndDispatch.fetchInstr.1 s.pollAndDispatch with
      | .next t => .next (t.finishStep s.pollAndDispatch.fetchInstr.1)
      | .fault r => .fault r
      | .refused r => .refused r := by
  cases h : exec s.pollAndDispatch.fetchInstr.1 s.pollAndDispatch <;> simp only [State.execute, fetchInstr_snd, h]

theorem step_running {s : State} (h : s.status = .running) : step s = s.envTurn.execute := by
  simp [step, State.stepOnce, h]

@[simp] theorem finishStep_running {s : State} (i : Instr) (h : s.status = .running) :
    s.finishStep i = (s.addCycles (Config.baseCost i.entry.1 i.entry.2)).applyToggle := by
  simp [State.finishStep, h]

@[simp] theorem finishStep_faulted {s : State} {t : Table} {k : Byte} {a : Word} (i : Instr) (h : s.status = .faulted t k a) :
    s.finishStep i = s := by
  simp [State.finishStep, h]

theorem lowestSource_zero : lowestSource 0 = none := by decide

/-- The poll services nothing when it is quiet (60_exceptions.md R140). -/
theorem pollAndDispatch_quiet {s : State} (h : s.quiet) : s.pollAndDispatch = s := by
  unfold State.pollAndDispatch
  rcases h with h | h
  · simp [h]
  · rw [h, lowestSource_zero]
    split <;> rfl

/-- No action of the environment reads or writes the turns that are coming. -/
theorem envAct_setEnv (s : State) (act : EnvAction) (e : List (List EnvAction)) :
    ({ s with env := e } : State).envAct act = { s.envAct act with env := e } := by
  cases act with
  | joypadSignal key pressed =>
    show ({ s with env := e } : State).joypadSignal key pressed = { s.joypadSignal key pressed with env := e }
    by_cases h : s.solicited key = true
    · have h' : ({ s with env := e } : State).solicited key = true := h
      simp only [State.joypadSignal, if_pos h, if_pos h']
      cases pressed <;> rfl
    · have h' : ¬ ({ s with env := e } : State).solicited key = true := h
      simp only [State.joypadSignal, if_neg h, if_neg h']
  | writeIo a v => by_cases h : envWritable a = true <;> simp only [State.envAct, h] <;> rfl
  | signalInterrupt src => rfl
  | observe => rfl
  | setHaltStop => rfl

theorem envActs_setEnv (s : State) (acts : List EnvAction) (e : List (List EnvAction)) :
    ({ s with env := e } : State).envActs acts = { s.envActs acts with env := e } := by
  induction acts generalizing s with
  | nil => rfl
  | cons act acts ih => rw [State.envActs, State.envActs, envAct_setEnv, ih]

/-- The turn at the head of `env`: its actions, and the turn is gone. -/
theorem envTurn_cons {s : State} {acts : List EnvAction} {rest : List (List EnvAction)} (h : s.env = acts :: rest) :
    s.envTurn = { s.envActs acts with env := rest } := by
  unfold State.envTurn
  rw [h]
  exact envActs_setEnv s acts rest

/-- With no turn coming the environment does nothing. -/
theorem envTurn_nil {s : State} (h : s.env = []) : s.envTurn = s := by
  unfold State.envTurn
  rw [h]

end Sys2Proof.Machine
end

