-- ==== Sys2Proof/Tests/Slice0.lean ====
section
/-! SUPPORT. Tests. Every expected result is from spec/95_test_vectors.md (its id stands in the docstring) or is worked out by hand from
the rule cited. No test runs more than two steps. Then the witnesses: for every statement with hypotheses, states and operands
that meet them, at the ends of their ranges. -/

namespace Sys2Proof.Tests

-- one theorem after another: each theorem elaborated beside the others takes a thread's stack of its own
set_option Elab.async false

open Sys2Proof.Machine

/-! ### Helpers -/

/-- `S0` of 95_test_vectors.md: reset with SystemVariant = DMG, ResetIME = false and an image of 0x8000 zero bytes. -/
def S0 : State := { State.resetFor .dmg false with romLen := 0x8000 }

/-- `S0` at `pc` with the bytes placed there. -/
def at_ (pc : Word) (bs : List Byte) : State := ({ S0 with pc := pc } : State).placeBytes pc bs

/-- `s` with A and F. -/
def withAF (s : State) (a f : Byte) : State := { s with af := mkWord a f }

/-- The outcome is a next state with the property. -/
def nextIs (o : Host.Outcome State Fault Refusal) (p : State → Bool) : Bool :=
  match o with
  | .next t => p t
  | .fault _ => false
  | .refused _ => false

/-- The decoder reads the bytes as `i` and leaves nothing. -/
def decodesTo (bs : List Byte) (i : Instr) : Bool :=
  match decode bs with
  | .ok (j, rest) => decide (j = i) && rest.isEmpty
  | .error _ => false

/-! ### Decoding: words written out from 30_encoding.md R85, R87, R91, R96 -/

theorem test_decode_plain :
    decodesTo [0b00000000] .nop = true ∧ decodesTo [0b00111110, 0x42] (.ldAN 0x42) = true := by decide +kernel

theorem test_decode_relative_jumps :
    decodesTo [0b00011000, 0xFE] (.jr 0xFE) = true ∧ decodesTo [0b00100000, 0xFC] (.jrNz 0xFC) = true ∧
    decodesTo [0b00101000, 0x02] (.jrZ 0x02) = true := by decide +kernel

theorem test_decode_absolute :
    decodesTo [0b11000011, 0x00, 0xC0] (.jp 0xC000) = true ∧ decodesTo [0b11001101, 0x34, 0x12] (.call 0x1234) = true ∧
    decodesTo [0b11101010, 0x23, 0xE1] (.ldNnA 0xE123) = true := by decide +kernel

theorem test_decode_high_page :
    decodesTo [0b11100000, 0x80] (.ldhNA 0x80) = true ∧ decodesTo [0b11110000, 0x0F] (.ldhAN 0x0F) = true := by decide +kernel

theorem test_decode_control :
    decodesTo [0b11110011] .di = true ∧ decodesTo [0b11111011] .ei = true ∧ decodesTo [0b11111110, 0x05] (.cp 0x05) = true := by
  decide +kernel

theorem test_decode_ld_b :
    decodesTo [0b01000000] .ldBB = true ∧ decodesTo [0b01000001] .ldBC = true ∧ decodesTo [0b01000010] .ldBD = true ∧
    decodesTo [0b01000011] .ldBE = true ∧ decodesTo [0b01000100] .ldBH = true ∧ decodesTo [0b01000101] .ldBL = true ∧
    decodesTo [0b01000111] .ldBA = true := by decide +kernel

theorem test_decode_ld_c :
    decodesTo [0b01001000] .ldCB = true ∧ decodesTo [0b01001001] .ldCC = true ∧ decodesTo [0b01001010] .ldCD = true ∧
    decodesTo [0b01001011] .ldCE = true ∧ decodesTo [0b01001100] .ldCH = true ∧ decodesTo [0b01001101] .ldCL = true ∧
    decodesTo [0b01001111] .ldCA = true := by decide +kernel

theorem test_decode_ld_d :
    decodesTo [0b01010000] .ldDB = true ∧ decodesTo [0b01010001] .ldDC = true ∧ decodesTo [0b01010010] .ldDD = true ∧
    decodesTo [0b01010011] .ldDE = true ∧ decodesTo [0b01010100] .ldDH = true ∧ decodesTo [0b01010101] .ldDL = true ∧
    decodesTo [0b01010111] .ldDA = true := by decide +kernel

theorem test_decode_ld_e :
    decodesTo [0b01011000] .ldEB = true ∧ decodesTo [0b01011001] .ldEC = true ∧ decodesTo [0b01011010] .ldED = true ∧
    decodesTo [0b01011011] .ldEE = true ∧ decodesTo [0b01011100] .ldEH = true ∧ decodesTo [0b01011101] .ldEL = true ∧
    decodesTo [0b01011111] .ldEA = true := by decide +kernel

theorem test_decode_ld_h :
    decodesTo [0b01100000] .ldHB = true ∧ decodesTo [0b01100001] .ldHC = true ∧ decodesTo [0b01100010] .ldHD = true ∧
    decodesTo [0b01100011] .ldHE = true ∧ decodesTo [0b01100100] .ldHH = true ∧ decodesTo [0b01100101] .ldHL = true ∧
    decodesTo [0b01100111] .ldHA = true := by decide +kernel

theorem test_decode_ld_l :
    decodesTo [0b01101000] .ldLB = true ∧ decodesTo [0b01101001] .ldLC = true ∧ decodesTo [0b01101010] .ldLD = true ∧
    decodesTo [0b01101011] .ldLE = true ∧ decodesTo [0b01101100] .ldLH = true ∧ decodesTo [0b01101101] .ldLL = true ∧
    decodesTo [0b01101111] .ldLA = true := by decide +kernel

theorem test_decode_ld_a :
    decodesTo [0b01111000] .ldAB = true ∧ decodesTo [0b01111001] .ldAC = true ∧ decodesTo [0b01111010] .ldAD = true ∧
    decodesTo [0b01111011] .ldAE = true ∧ decodesTo [0b01111100] .ldAH = true ∧ decodesTo [0b01111101] .ldAL = true ∧
    decodesTo [0b01111111] .ldAA = true := by decide +kernel

theorem test_decode_xor :
    decodesTo [0b10101000] .xorB = true ∧ decodesTo [0b10101001] .xorC = true ∧ decodesTo [0b10101010] .xorD = true ∧
    decodesTo [0b10101011] .xorE = true ∧ decodesTo [0b10101100] .xorH = true ∧ decodesTo [0b10101101] .xorL = true ∧
    decodesTo [0b10101111] .xorA = true := by decide +kernel

/-- The prefix takes its key; HALT, RET, 0xD3 and the 110 columns are unbound and take no byte more (V-F1 to V-F5, V-F10). -/
theorem test_decode_undefined :
    decodesTo [0xCB, 0x37] (.prefixCb 0x37) = true ∧ decodesTo [0x76] (.undefinedOpcode 0x76) = true ∧
    decodesTo [0xC9] (.undefinedOpcode 0xC9) = true ∧ decodesTo [0xD3] (.undefinedOpcode 0xD3) = true ∧
    decodesTo [0x70] (.undefinedOpcode 0x70) = true ∧ decodesTo [0x46] (.undefinedOpcode 0x46) = true ∧
    decodesTo [0xAE] (.undefinedOpcode 0xAE) = true ∧ decode [0xEE, 0x01] = .ok (.undefinedOpcode 0xEE, [0x01]) :=
  ⟨rfl, rfl, rfl, rfl, rfl, rfl, rfl, rfl⟩

/-- A list with bytes missing is no instruction, and the reason is named. -/
theorem test_decode_refuses :
    decode [] = .error .noBytes ∧ decode [0x18] = .error (.operandMissing 0x18) ∧
    decode [0xC3, 0x00] = .error (.operandMissing 0xC3) := ⟨rfl, rfl, rfl⟩

/-- The one check of WellFormed refuses a bound byte and the prefix as an undefined opcode, and lets an unbound one through. -/
theorem test_wellFormed_smoke :
    ¬ WellFormed (.undefinedOpcode 0x00) ∧ ¬ WellFormed (.undefinedOpcode 0xCB) ∧ ¬ WellFormed (.undefinedOpcode 0x78) ∧
    ¬ WellFormed (.undefinedOpcode 0xAF) ∧ WellFormed (.undefinedOpcode 0x76) ∧ WellFormed (.jr 0x80) := by decide

/-- The opcode table's numbering: the first byte is bits 7..0 (30_encoding.md R96). -/
theorem test_table_words :
    decodeTableWord 24 0xC000C3 = some (.jp 0xC000) ∧ decodeTableWord 8 0x18 = some (.jr 0x00) ∧
    decodeTableWord 16 0x37CB = some (.prefixCb 0x37) := ⟨rfl, rfl, rfl⟩

/-! ### One step of each instruction -/

/-- V-N1 -/
theorem test_nop : nextIs (step (at_ 0x0150 [0x00])) (fun t => t.pc == 0x0151 && t.af == 0x01B0 && t.status == .running) = true := by
  decide +kernel
/-- V-N1: the cost is the entry's. -/
theorem test_nop_cycles (t : State) (h : step (at_ 0x0150 [0x00]) = .next t) : t.cycles = 0 + Config.baseCost .primary 0x00 := by
  cases h
  rfl

/-- V-J4 -/
theorem test_jr_back : nextIs (step (at_ 0x0100 [0x18, 0x80]))
    (fun t => t.pc == 0x0082) = true := by decide +kernel
/-- V-J6 -/
theorem test_jr_wraps : nextIs (step (at_ 0xFFF0 [0x18, 0x7F]))
    (fun t => t.pc == 0x0071) = true := by decide +kernel
/-- V-J8 -/
theorem test_jrNz_taken : nextIs (step (withAF (at_ 0x0200 [0x20, 0xFC]) 0x01 0x00))
    (fun t => t.pc == 0x01FE) = true := by decide +kernel
/-- V-J9 -/
theorem test_jrNz_falls_through : nextIs (step (withAF (at_ 0x0200 [0x20, 0xFC]) 0x01 0x80))
    (fun t => t.pc == 0x0202) = true := by decide +kernel
/-- V-J10 -/
theorem test_jrZ_taken : nextIs (step (withAF (at_ 0x0105 [0x28, 0x02]) 0x01 0xC0))
    (fun t => t.pc == 0x0109) = true := by decide +kernel
/-- V-J11 -/
theorem test_jrZ_falls_through : nextIs (step (withAF (at_ 0x0105 [0x28, 0x02]) 0x01 0x50))
    (fun t => t.pc == 0x0107) = true := by decide +kernel
/-- V-P1, W6 -/
theorem test_jp : nextIs (step (at_ 0x0150 [0xC3, 0x00, 0xC0]))
    (fun t => t.pc == 0xC000) = true := by decide +kernel
/-- V-P3: the opcode in high RAM, the operand in IE and at 0x0000 -/
theorem test_jp_operand_wraps : nextIs (step (at_ 0xFFFE [0xC3, 0x34, 0x12]))
    (fun t => t.pc == 0x1234 && t.ie == 0x34) = true := by decide +kernel
/-- V-C1, W7 -/
theorem test_call : nextIs (step (at_ 0x0200 [0xCD, 0x00, 0x03]))
    (fun t => t.pc == 0x0300 && t.sp == 0xFFFC && t.read8 0xFFFC == 0x03 && t.read8 0xFFFD == 0x02) = true := by decide +kernel
/-- V-C3: the high byte of the push lands in IE -/
theorem test_call_push_over_ie : nextIs (step ({ (at_ 0x0150 [0xCD, 0x00, 0x03] : State) with sp := 0x0000 }))
    (fun t => t.pc == 0x0300 && t.sp == 0xFFFE && t.read8 0xFFFE == 0x53 && t.ie == 0x01) = true := by decide +kernel
/-- V-L1 -/
theorem test_ldAN : nextIs (step (at_ 0x0100 [0x3E, 0x42]))
    (fun t => t.af == 0x42B0 && t.pc == 0x0102) = true := by decide +kernel
/-- V-L2 -/
theorem test_ldAN_zero_keeps_flags : nextIs (step (withAF (at_ 0x0100 [0x3E, 0x00]) 0x01 0x00))
    (fun t => t.af == 0x0000) = true := by decide +kernel
/-- V-L4 -/
theorem test_ldHL : nextIs (step (at_ 0x0100 [0x65]))
    (fun t => t.hl == 0x4D4D && t.pc == 0x0101) = true := by decide +kernel
/-- V-L7, W1 -/
theorem test_ldBA : nextIs (step ({ (withAF (at_ 0x0100 [0x47]) 0x12 0xB0 : State) with bc := 0x00FF }))
    (fun t => t.bc == 0x12FF) = true := by decide +kernel
/-- V-L9 -/
theorem test_ldhNA : nextIs (step (withAF (at_ 0x0100 [0xE0, 0x80]) 0x42 0xB0))
    (fun t => t.read8 0xFF80 == 0x42 && t.pc == 0x0102) = true := by decide +kernel
/-- V-L12 -/
theorem test_ldhNA_joypad : nextIs (step (withAF (at_ 0x0100 [0xE0, 0x00]) 0x30 0xB0))
    (fun t => t.joyCol == 0x30 && t.joyRow == 0x0F) = true := by decide +kernel
/-- V-L15 -/
theorem test_ldhAN_joypad : nextIs (step ({ (at_ 0x0100 [0xF0, 0x00] : State) with joyCol := 0x20, joyRow := 0x0E }))
    (fun t => t.af == 0x2EB0) = true := by decide +kernel
/-- V-L18: all eight bits of IF are stored -/
theorem test_ldhAN_if : nextIs (step ((at_ 0x0100 [0xF0, 0x0F]).setIf 0xE1))
    (fun t => t.af == 0xE1B0 && t.pc == 0x0102) = true := by decide +kernel
/-- V-L20 -/
theorem test_ldNnA_echo : nextIs (step (withAF (at_ 0x0100 [0xEA, 0x23, 0xE1]) 0x5A 0xB0))
    (fun t => t.read8 0xC123 == 0x5A && t.pc == 0x0103) = true := by decide +kernel
/-- V-L24 -/
theorem test_ldNnA_bank_zero : nextIs (step ({ (withAF (at_ 0x0100 [0xEA, 0x00, 0x20]) 0x20 0xB0 : State) with romBank := 7 }))
    (fun t => t.romBank == 1) = true := by decide +kernel
/-- V-X1 -/
theorem test_xorB : nextIs (step ({ (withAF (at_ 0x0100 [0xA8]) 0x5A 0xB0 : State) with bc := 0xFF13 }))
    (fun t => t.af == 0xA500 && t.pc == 0x0101) = true := by decide +kernel
/-- V-X2 -/
theorem test_xorC : nextIs (step ({ (withAF (at_ 0x0100 [0xA9]) 0x3C 0xB0 : State) with bc := 0x003C }))
    (fun t => t.af == 0x0080) = true := by decide +kernel
/-- V-X3 -/
theorem test_xorD : nextIs (step (withAF (at_ 0x0100 [0xAA]) 0x00 0xB0))
    (fun t => t.af == 0x0080) = true := by decide +kernel
/-- V-X4 -/
theorem test_xorE : nextIs (step ({ (withAF (at_ 0x0100 [0xAB]) 0x81 0xB0 : State) with de := 0x0000 }))
    (fun t => t.af == 0x8100) = true := by decide +kernel
/-- V-X5 -/
theorem test_xorH : nextIs (step ({ (withAF (at_ 0x0100 [0xAC]) 0x0F 0xB0 : State) with hl := 0xF04D }))
    (fun t => t.af == 0xFF00) = true := by decide +kernel
/-- V-X6 -/
theorem test_xorL : nextIs (step (at_ 0x0100 [0xAD]))
    (fun t => t.af == 0x4C00) = true := by decide +kernel
/-- V-X8, W3 -/
theorem test_xorA : nextIs (step (at_ 0x0100 [0xAF]))
    (fun t => t.af == 0x0080 && t.pc == 0x0101) = true := by decide +kernel
/-- V-K1, W4 -/
theorem test_cp_equal : nextIs (step (withAF (at_ 0x0100 [0xFE, 0x05]) 0x05 0xB0))
    (fun t => t.af == 0x05C0 && t.pc == 0x0102) = true := by decide +kernel
/-- V-K8: 0x80 is greater than 0x7F -/
theorem test_cp_unsigned : nextIs (step (withAF (at_ 0x0100 [0xFE, 0x7F]) 0x80 0xB0))
    (fun t => t.af == 0x8060) = true := by decide +kernel
/-- V-T2: DI enables where ime was false -/
theorem test_di : nextIs (step (at_ 0x0150 [0xF3]))
    (fun t => t.ime && !t.toggleArmed && t.pc == 0x0151) = true := by decide +kernel
/-- V-T1 for EI (R129): EI disables where ime was true and nothing is pending -/
theorem test_ei : nextIs (step ({ (at_ 0x0150 [0xFB] : State) with ime := true }))
    (fun t => !t.ime && !t.toggleArmed && t.af == 0x01B0) = true := by decide +kernel
/-- V-F1, W9 -/
theorem test_undefinedOpcode : nextIs (step (at_ 0x0150 [0xD3]))
    (fun t => t.status == .faulted .primary 0xD3 0x0150 && t.pc == 0x0150 && t.cycles == 0) = true := by decide +kernel
/-- V-F8: bank 2 of a two-bank image reads 0xFF -/
theorem test_undefinedOpcode_past_the_image : nextIs (step ({ (at_ 0x0100 [0x00] : State) with pc := 0x4000, romBank := 2 }))
    (fun t => t.status == .faulted .primary 0xFF 0x4000) = true := by decide +kernel
/-- V-F3 -/
theorem test_prefixCb : nextIs (step (at_ 0x0150 [0xCB, 0x37]))
    (fun t => t.status == .faulted .secondary 0x37 0x0150 && t.pc == 0x0150) = true := by decide +kernel
/-- V-F7: the prefix in IE and its key at 0x0000 -/
theorem test_prefixCb_wraps : nextIs (step (at_ 0xFFFF [0xCB, 0x11]))
    (fun t => t.status == .faulted .secondary 0x11 0xFFFF) = true := by decide +kernel

/-! ### LD r,r': every form, from A = 11H, B = 22H, C = 33H, D = 44H, E = 55H, H = 66H, L = 77H (R120) -/

/-- The registers, each with a byte of its own. -/
def sevenRegs : State := { S0 with af := 0x11B0, bc := 0x2233, de := 0x4455, hl := 0x6677 }

/-- After `i`, the four words are these, and `pc` is one on. -/
def leaves (i : Instr) (af bc de hl : Word) : Bool :=
  nextIs (exec i sevenRegs) fun t => t.af == af && t.bc == bc && t.de == de && t.hl == hl && t.pc == 0x0101

theorem test_ld_b_from_each :
    leaves .ldBB 0x11B0 0x2233 0x4455 0x6677 = true ∧
    leaves .ldBC 0x11B0 0x3333 0x4455 0x6677 = true ∧
    leaves .ldBD 0x11B0 0x4433 0x4455 0x6677 = true ∧
    leaves .ldBE 0x11B0 0x5533 0x4455 0x6677 = true ∧
    leaves .ldBH 0x11B0 0x6633 0x4455 0x6677 = true ∧
    leaves .ldBL 0x11B0 0x7733 0x4455 0x6677 = true ∧
    leaves .ldBA 0x11B0 0x1133 0x4455 0x6677 = true := by decide +kernel

theorem test_ld_c_from_each :
    leaves .ldCB 0x11B0 0x2222 0x4455 0x6677 = true ∧
    leaves .ldCC 0x11B0 0x2233 0x4455 0x6677 = true ∧
    leaves .ldCD 0x11B0 0x2244 0x4455 0x6677 = true ∧
    leaves .ldCE 0x11B0 0x2255 0x4455 0x6677 = true ∧
    leaves .ldCH 0x11B0 0x2266 0x4455 0x6677 = true ∧
    leaves .ldCL 0x11B0 0x2277 0x4455 0x6677 = true ∧
    leaves .ldCA 0x11B0 0x2211 0x4455 0x6677 = true := by decide +kernel

theorem test_ld_d_from_each :
    leaves .ldDB 0x11B0 0x2233 0x2255 0x6677 = true ∧
    leaves .ldDC 0x11B0 0x2233 0x3355 0x6677 = true ∧
    leaves .ldDD 0x11B0 0x2233 0x4455 0x6677 = true ∧
    leaves .ldDE 0x11B0 0x2233 0x5555 0x6677 = true ∧
    leaves .ldDH 0x11B0 0x2233 0x6655 0x6677 = true ∧
    leaves .ldDL 0x11B0 0x2233 0x7755 0x6677 = true ∧
    leaves .ldDA 0x11B0 0x2233 0x1155 0x6677 = true := by decide +kernel

theorem test_ld_e_from_each :
    leaves .ldEB 0x11B0 0x2233 0x4422 0x6677 = true ∧
    leaves .ldEC 0x11B0 0x2233 0x4433 0x6677 = true ∧
    leaves .ldED 0x11B0 0x2233 0x4444 0x6677 = true ∧
    leaves .ldEE 0x11B0 0x2233 0x4455 0x6677 = true ∧
    leaves .ldEH 0x11B0 0x2233 0x4466 0x6677 = true ∧
    leaves .ldEL 0x11B0 0x2233 0x4477 0x6677 = true ∧
    leaves .ldEA 0x11B0 0x2233 0x4411 0x6677 = true := by decide +kernel

theorem test_ld_h_from_each :
    leaves .ldHB 0x11B0 0x2233 0x4455 0x2277 = true ∧
    leaves .ldHC 0x11B0 0x2233 0x4455 0x3377 = true ∧
    leaves .ldHD 0x11B0 0x2233 0x4455 0x4477 = true ∧
    leaves .ldHE 0x11B0 0x2233 0x4455 0x5577 = true ∧
    leaves .ldHH 0x11B0 0x2233 0x4455 0x6677 = true ∧
    leaves .ldHL 0x11B0 0x2233 0x4455 0x7777 = true ∧
    leaves .ldHA 0x11B0 0x2233 0x4455 0x1177 = true := by decide +kernel

theorem test_ld_l_from_each :
    leaves .ldLB 0x11B0 0x2233 0x4455 0x6622 = true ∧
    leaves .ldLC 0x11B0 0x2233 0x4455 0x6633 = true ∧
    leaves .ldLD 0x11B0 0x2233 0x4455 0x6644 = true ∧
    leaves .ldLE 0x11B0 0x2233 0x4455 0x6655 = true ∧
    leaves .ldLH 0x11B0 0x2233 0x4455 0x6666 = true ∧
    leaves .ldLL 0x11B0 0x2233 0x4455 0x6677 = true ∧
    leaves .ldLA 0x11B0 0x2233 0x4455 0x6611 = true := by decide +kernel

theorem test_ld_a_from_each :
    leaves .ldAB 0x22B0 0x2233 0x4455 0x6677 = true ∧
    leaves .ldAC 0x33B0 0x2233 0x4455 0x6677 = true ∧
    leaves .ldAD 0x44B0 0x2233 0x4455 0x6677 = true ∧
    leaves .ldAE 0x55B0 0x2233 0x4455 0x6677 = true ∧
    leaves .ldAH 0x66B0 0x2233 0x4455 0x6677 = true ∧
    leaves .ldAL 0x77B0 0x2233 0x4455 0x6677 = true ∧
    leaves .ldAA 0x11B0 0x2233 0x4455 0x6677 = true := by decide +kernel

/-! ### Interrupts, the toggle, the environment, reset -/

/-- `18 FE` at every vector, IE and IF as given, `ime` true, at 0x0150 (95_test_vectors.md 2.7). -/
def pendingState (ie ifr : Byte) (vector : Word) : State :=
  { ((({ S0 with pc := 0x0150, ime := true } : State).placeBytes vector [0x18, 0xFE]).setIf ifr) with ie := ie }

/-- V-I1, W12 -/
theorem test_service_vblank : nextIs (step (pendingState 0x01 0x01 0x0040))
    (fun t => t.ifReg == 0x00 && !t.ime && t.sp == 0xFFFC && t.read8 0xFFFC == 0x50 && t.read8 0xFFFD == 0x01 && t.pc == 0x0040) = true := by
  decide +kernel
/-- V-I1: 20 cycles and the cost of the JR. -/
theorem test_service_cycles (t : State) (h : step (pendingState 0x01 0x01 0x0040) = .next t) :
    t.cycles = 0 + 20 + Config.baseCost .primary 0x18 := by
  cases h
  rfl
/-- V-I2 -/
theorem test_service_lcdStat : nextIs (step (pendingState 0x1F 0x06 0x0048)) (fun t => t.ifReg == 0x04 && t.pc == 0x0048) = true := by
  decide +kernel
/-- V-I3 -/
theorem test_service_timer : nextIs (step (pendingState 0x04 0x06 0x0050)) (fun t => t.ifReg == 0x02 && t.pc == 0x0050) = true := by
  decide +kernel
/-- V-I4 -/
theorem test_service_serial : nextIs (step (pendingState 0x1F 0x08 0x0058)) (fun t => t.ifReg == 0x00 && t.pc == 0x0058) = true := by
  decide +kernel
/-- V-I5 -/
theorem test_service_joypad : nextIs (step (pendingState 0x1F 0x10 0x0060)) (fun t => t.ifReg == 0x00 && t.pc == 0x0060) = true := by
  decide +kernel
/-- V-I7: bits 5..7 are masked, and the NOP at 0x0150 runs. -/
theorem test_no_service_of_high_bits : nextIs (step (pendingState 0xE0 0xE0 0x0040)) (fun t => t.ifReg == 0xE0 && t.ime && t.pc == 0x0151) = true := by
  decide +kernel
/-- V-I10: the push's high byte lands in IE. -/
theorem test_service_push_over_ie : nextIs (step { pendingState 0x01 0x01 0x0040 with sp := 0x0000 })
    (fun t => t.read8 0xFFFE == 0x50 && t.ie == 0x01 && t.sp == 0xFFFE && t.pc == 0x0040) = true := by decide +kernel
/-- V-I11: the push writes IF after the bit was cleared. -/
theorem test_service_push_over_if : nextIs (step { pendingState 0x01 0x01 0x0040 with sp := 0xFF11, pc := 0x0105 })
    (fun t => t.ifReg == 0x05 && t.read8 0xFF10 == 0x01 && t.sp == 0xFF0F && !t.ime && t.pending == 0x01) = true := by decide +kernel
/-- V-I12: service, then the fault at the vector; `cycles = 20`. -/
theorem test_service_then_fault : nextIs (step ((pendingState 0x01 0x01 0x0048).placeBytes 0x0040 [0xD3]))
    (fun t => t.status == .faulted .primary 0xD3 0x0040 && t.pc == 0x0040 && t.cycles == 20 && t.ifReg == 0x00 && !t.ime) = true := by
  decide +kernel

/-- V-T3: EI with V-blank pending; the service is at the second step's poll. -/
theorem test_toggle_then_service :
    nextIs (step ({ ((at_ 0x0150 [0xFB, 0x00]).placeBytes 0x0040 [0x18, 0xFE]).setIf 0x01 with ie := 0x01 } : State))
      (fun t => t.ime && t.pc == 0x0151 && nextIs (step t)
        (fun u => u.ifReg == 0x00 && !u.ime && u.sp == 0xFFFC && u.read8 0xFFFC == 0x51 && u.read8 0xFFFD == 0x01 && u.pc == 0x0040)) = true := by
  decide +kernel

/-- V-F9: after the fault there is no step. -/
theorem test_faulted_has_no_step :
    step { S0 with status := .faulted .primary 0xD3 0x0150 } = .fault (.undefinedOpcode .primary 0xD3 0x0150) := rfl

/-- V-Y2, V-Y3, W8: press, then release. -/
theorem test_joypad_press_release :
    (({ S0 with joyCol := 0x20 } : State).joypadSignal 0x21 true).joyRow = 0x0E ∧
    (({ S0 with joyCol := 0x20 } : State).joypadSignal 0x21 true).ifReg = 0x00 ∧
    (({ S0 with joyCol := 0x20, joyRow := 0x0E } : State).joypadSignal 0x21 false).joyRow = 0x0F ∧
    (({ S0 with joyCol := 0x20, joyRow := 0x0E } : State).joypadSignal 0x21 false).ifReg = 0x10 := by decide +kernel
/-- V-Y4, V-Y6, V-Y9. -/
theorem test_environment :
    ({ S0 with joyCol := 0x20 } : State).joypadSignal 0x12 true = { S0 with joyCol := 0x20 } ∧
    (({ S0 with joyCol := 0x30 } : State).joypadSignal 0x1C true).joyRow = 0x03 ∧
    ((S0.signalInterrupt .timer).signalInterrupt .timer).ifReg = 0x04 := by decide +kernel
/-- R136: the five bits of IF by source name. -/
theorem test_signal_bits :
    (S0.signalInterrupt .vblank).ifReg = 0x01 ∧ (S0.signalInterrupt .lcdStat).ifReg = 0x02 ∧ (S0.signalInterrupt .timer).ifReg = 0x04 ∧
    (S0.signalInterrupt .serial).ifReg = 0x08 ∧ (S0.signalInterrupt .joypad).ifReg = 0x10 := by decide +kernel
/-- R151, R162: one step takes one turn, here `halt_stop` set, and leaves the next one. -/
theorem test_environment_turn :
    nextIs (step { S0 with env := [[.setHaltStop], [.writeIo 0xFF05 0xAB]] })
      (fun t => t.haltStop && t.env == [[.writeIo 0xFF05 0xAB]] && t.read8 0xFF05 == 0x00) = true := by decide +kernel
/-- V-Y10: the environment's write is read by the LDH of the step it comes before. -/
theorem test_environment_write_then_read :
    nextIs (step { (at_ 0x0100 [0xF0, 0x05] : State) with env := [[.writeIo 0xFF05 0xAB]] }) (fun t => t.af == 0xABB0 && t.env.isEmpty) = true := by
  decide +kernel

/-- V-R1 to V-R4 -/
theorem test_reset_variants :
    (State.resetFor .dmg false).af = 0x01B0 ∧ (State.resetFor .sgb false).af = 0x01B0 ∧ (State.resetFor .cgb false).af = 0x11B0 ∧
    (State.resetFor .mgb false).af = 0xFFB0 := by decide
/-- Reset memory is canonical (10_state.md R39). -/
theorem test_reset_memory : Memory.wf State.reset.mem = true ∧ Memory.wf State.reset.rom = true := ⟨rfl, rfl⟩
/-- Writing the byte that an unlisted address reads as removes the entry. -/
theorem test_memory_canonical :
    Memory.write (Memory.write [] 5 0x01) 5 0x00 = [] ∧ Memory.write (Memory.write [] 9 0x01) 5 0x02 = [(5, 0x02), (9, 0x01)] := by
  decide

/-- The host's placing of an instruction: from reset, the next step runs exactly it. -/
theorem test_withFetchWord :
    nextIs (step (State.reset.withFetchWord 24 0xC000C3)) (fun t => t.pc == 0xC000) = true ∧
    nextIs (step (State.reset.withFetchWord 16 0x0518)) (fun t => t.pc == 0x0107) = true := by decide +kernel

/-! ### Witnesses: states and operands that meet the hypotheses of each statement -/

/-- `S0` with one undefined opcode to fetch, and others, for the witnesses below. -/
def faultState : State := at_ 0x0150 [0xD3]

theorem witness_DecodeOfEncode : WellFormed .nop ∧ WellFormed (.jp 0xFFFF) ∧ WellFormed (.undefinedOpcode 0xFF) := by decide
theorem witness_EncodeOfDecode : decode [0x18, 0x05, 0x00] = .ok (.jr 0x05, [0x00]) := rfl
theorem witness_RegisterFieldsOfLoadAndXor :
    Instr.ldBB.loadRegs = some (.b, .b) ∧ Instr.ldAA.loadRegs = some (.a, .a) ∧ Instr.xorB.xorReg = some .b ∧
    Instr.xorA.xorReg = some .a ∧ Reg8.b ≠ .f ∧ Reg8.a ≠ .f := by decide
theorem witness_UnboundBytesAreUndefinedOpcodes : boundByte 0x01 = false ∧ boundByte 0xFF = false := by decide
theorem witness_RomReadsTheImage :
    (0x3FFF#16).toNat ≤ 0x3FFF ∧ 0x4000 ≤ (0x4000#16).toNat ∧ (0x4000#16).toNat ≤ 0x7FFF ∧ 0x4000 ≤ (0x7FFF#16).toNat ∧
    (0x7FFF#16).toNat ≤ 0x7FFF := by decide
theorem witness_RomWritesNeverChangeTheImage :
    (0x7FFF#16).toNat ≤ 0x7FFF ∧ isBankSelect 0x1FFF = false ∧ isBankSelect 0x4000 = false ∧ isBankSelect 0x7FFF = false := by decide
theorem witness_BankSelectStore :
    0x2000 ≤ (0x2000#16).toNat ∧ (0x3FFF#16).toNat ≤ 0x3FFF ∧ (0x1FFF#16).toNat < 0x2000 ∧ 0x3FFF < (0x4000#16).toNat := by decide
theorem witness_StorageReadsBack :
    Memory.wf S0.mem = true ∧ InStorage 0x8000 ∧ InStorage 0xFE9F ∧ InStorage 0xFF01 ∧ InStorage 0xFFFE ∧ InStorage 0xC000 ∧
    InStorage 0xDDFF := by
  refine ⟨rfl, ?_, ?_, ?_, ?_, ?_, ?_⟩ <;> unfold InStorage <;> decide
theorem witness_UnusableRegionIsUnmapped :
    0xFEA0 ≤ (0xFEA0#16).toNat ∧ (0xFEA0#16).toNat ≤ 0xFEFF ∧ 0xFEA0 ≤ (0xFEFF#16).toNat ∧ (0xFEFF#16).toNat ≤ 0xFEFF := by decide
theorem witness_WordsAreLittleEndian :
    Memory.wf S0.mem = true ∧ (InStorage 0x8000 ∧ InStorage (0x8000 + 1)) ∧ (InStorage 0xFFFD ∧ InStorage (0xFFFD + 1)) := by
  refine ⟨rfl, ⟨?_, ?_⟩, ?_, ?_⟩ <;> unfold InStorage <;> decide
theorem witness_RelativeJump : (at_ 0x0100 [0x18, 0x05]).read8 (at_ 0x0100 [0x18, 0x05]).pc = 0x18 := by decide +kernel
theorem witness_AbsoluteJump : (at_ 0xFFFE [0xC3, 0x34, 0x12]).read8 (at_ 0xFFFE [0xC3, 0x34, 0x12]).pc = 0xC3 := by decide +kernel
theorem witness_CallPushesTheReturnAddress :
    Memory.wf S0.mem = true ∧ InStorage (S0.sp - 2) ∧ InStorage (S0.sp - 1) := by
  refine ⟨rfl, ?_, ?_⟩ <;> unfold InStorage <;> decide
theorem witness_LoadRegister : Instr.ldBC.loadRegs = some (.b, .c) ∧ Instr.ldAA.loadRegs = some (.a, .a) := by decide
theorem witness_HighPageStore : Memory.wf S0.mem = true ∧ (0x01#8) ≠ 0x00 ∧ (0xFF#8) ≠ 0x00 := by decide
theorem witness_AbsoluteStore :
    Memory.wf (at_ 0xC000 [0xEA, 0x03, 0xC0]).mem = true ∧ InStorage 0xC003 ∧ (0xC003 : Word) = (at_ 0xC000 [0xEA, 0x03, 0xC0]).pc + 3 := by
  refine ⟨rfl, ?_, rfl⟩
  unfold InStorage
  decide
theorem witness_ExclusiveOr : Instr.xorB.xorReg = some .b ∧ Instr.xorA.xorReg = some .a := by decide
theorem witness_StoresReachNoOtherByte :
    storeReaches 0xC000 0xE001 = false ∧ storeReaches 0xC000 0xBFFF = false ∧ storeReaches 0x2000 0x3FFF = false ∧
    storeReaches 0xFFFF 0xFFFE = false := by decide
theorem witness_OtherInstructionsStoreNothing : storesMemory .nop = false ∧ exec .nop S0 = .next (S0.advance 1) := ⟨rfl, rfl⟩
theorem witness_OnlyXorAndCpWriteFlags : writesFlags (.ldAN 0x00) = false ∧ exec .nop S0 = .next (S0.advance 1) := ⟨rfl, rfl⟩
theorem witness_RegistersWrittenOnlyByTheirWriters :
    ∃ t u v, exec (.call 0x0300) S0 = .next t ∧ t.sp ≠ S0.sp ∧ exec .ldBA S0 = .next u ∧ u.reg8 .b ≠ S0.reg8 .b ∧
      exec (.ldAN 0x42) S0 = .next v ∧ v.reg8 .a ≠ S0.reg8 .a :=
  ⟨_, _, _, rfl, by decide +kernel, rfl, by decide +kernel, rfl, by decide +kernel⟩
theorem witness_HandlersLeaveControlState :
    ∃ t u, exec .ei S0 = .next t ∧ t.toggleArmed ≠ S0.toggleArmed ∧ exec (.prefixCb 0x37) S0 = .next u ∧ u.status ≠ S0.status :=
  ⟨_, _, rfl, by decide +kernel, rfl, by decide +kernel⟩
theorem witness_SequentialInstructionsAdvanceByTheirLength : assignsPc (.ldNnA 0xC000) = false ∧ ∃ t, exec (.ldNnA 0xC000) S0 = .next t :=
  ⟨rfl, _, rfl⟩
theorem witness_PollServicesExactlyWhenEnabledAndPending :
    S0.ime = false ∧ (pendingState 0xE0 0xE0 0x0040).ie &&& (pendingState 0xE0 0xE0 0x0040).read8 0xFF0F &&& 0x1F = 0 ∧
    (pendingState 0x10 0x10 0x0060).ime = true ∧
    (pendingState 0x10 0x10 0x0060).ie &&& (pendingState 0x10 0x10 0x0060).read8 0xFF0F &&& 0x1F ≠ 0 := by decide +kernel
theorem witness_LowestPendingSourceIsServiced :
    ((pendingState 0x1F 0x1F 0x0040).ime = true ∧
      ((pendingState 0x1F 0x1F 0x0040).ie &&& (pendingState 0x1F 0x1F 0x0040).ifReg).getLsbD 0 = true) ∧
    ((pendingState 0x1F 0x10 0x0060).ime = true ∧
      ((pendingState 0x1F 0x10 0x0060).ie &&& (pendingState 0x1F 0x10 0x0060).ifReg).getLsbD 4 = true ∧
      ∀ j, j < 4 → ((pendingState 0x1F 0x10 0x0060).ie &&& (pendingState 0x1F 0x10 0x0060).ifReg).getLsbD j = false) := by
  decide +kernel
theorem witness_ServiceSavesPcAndClearsOneBit :
    (Memory.wf (pendingState 0x1F 0x10 0x0060).mem = true ∧ (pendingState 0x1F 0x10 0x0060).ime = true ∧
      ((pendingState 0x1F 0x10 0x0060).ie &&& (pendingState 0x1F 0x10 0x0060).ifReg).getLsbD 4 = true ∧
      (∀ j, j < 4 → ((pendingState 0x1F 0x10 0x0060).ie &&& (pendingState 0x1F 0x10 0x0060).ifReg).getLsbD j = false) ∧
      (pendingState 0x1F 0x10 0x0060).sp - 2 ≠ 0xFF0F ∧ (pendingState 0x1F 0x10 0x0060).sp - 1 ≠ 0xFF0F) ∧
    InStorage ((pendingState 0x1F 0x10 0x0060).sp - 2) ∧ InStorage ((pendingState 0x1F 0x10 0x0060).sp - 1) := by
  refine ⟨by decide +kernel, ?_, ?_⟩ <;> unfold InStorage <;> decide +kernel
theorem witness_PollServicesAtMostOne :
    (Memory.wf (pendingState 0x1F 0x1F 0x0040).mem = true ∧ (pendingState 0x1F 0x1F 0x0040).sp - 2 ≠ 0xFF0F ∧
      (pendingState 0x1F 0x1F 0x0040).sp - 1 ≠ 0xFF0F ∧ (pendingState 0x1F 0x1F 0x0040).pollAndDispatch.ifReg = 0x1E) ∧
    (Memory.wf (pendingState 0x1F 0x10 0x0060).mem = true ∧ (pendingState 0x1F 0x10 0x0060).sp - 2 ≠ 0xFF0F ∧
      (pendingState 0x1F 0x10 0x0060).sp - 1 ≠ 0xFF0F ∧ (pendingState 0x1F 0x10 0x0060).pollAndDispatch.ifReg = 0x00) := by decide +kernel
theorem witness_ToggleFlipsOnceAtTheEndOfItsStep :
    ((at_ 0x0150 [0xF3]).status = .running ∧ (at_ 0x0150 [0xF3]).fetchedOpcode = 0xF3) ∧
    ((at_ 0x0150 [0xFB]).status = .running ∧ (at_ 0x0150 [0xFB]).fetchedOpcode = 0xFB) := by decide +kernel
theorem witness_TwoTogglesCancel :
    (at_ 0x0150 [0xFB, 0xF3]).status = .running ∧ (at_ 0x0150 [0xFB, 0xF3]).env = [] ∧
    (at_ 0x0150 [0xFB, 0xF3]).ie &&& (at_ 0x0150 [0xFB, 0xF3]).ifReg &&& 0x1F = 0 ∧
    (at_ 0x0150 [0xFB, 0xF3]).read8 (at_ 0x0150 [0xFB, 0xF3]).pc = 0xFB ∧
    (at_ 0x0150 [0xFB, 0xF3]).read8 ((at_ 0x0150 [0xFB, 0xF3]).pc + 1) = 0xF3 := by decide +kernel
theorem witness_MasterEnableChangesOnlyByServiceOrToggle :
    (∃ t, (at_ 0x0150 [0xF3]).toggleArmed = false ∧ step (at_ 0x0150 [0xF3]) = .next t ∧ t.ime ≠ (at_ 0x0150 [0xF3]).ime) ∧
    (∃ t, (pendingState 0x01 0x01 0x0040).toggleArmed = false ∧ step (pendingState 0x01 0x01 0x0040) = .next t ∧
      t.ime ≠ (pendingState 0x01 0x01 0x0040).ime) :=
  ⟨⟨_, rfl, rfl, by decide +kernel⟩, ⟨_, rfl, rfl, by decide +kernel⟩⟩
theorem witness_StepRunsTheDecodedInstruction :
    S0.status = .running ∧
    decode [S0.atFetch.read8 S0.atFetch.pc, S0.atFetch.read8 (S0.atFetch.pc + 1), S0.atFetch.read8 (S0.atFetch.pc + 2)] =
      .ok (.nop, [0x00, 0x00]) := ⟨rfl, rfl⟩
theorem witness_RunningMachineAlwaysSteps :
    S0.status = .running ∧ ({ S0 with status := .faulted .primary 0xD3 0x0150 } : State).status = .faulted .primary 0xD3 0x0150 := ⟨rfl, rfl⟩
theorem witness_CostIsTheEntrysWhateverTheOutcome :
    ((pendingState 0x01 0x01 0x0040).status = .running ∧ boundByte (pendingState 0x01 0x01 0x0040).fetchedOpcode = true ∧
      (pendingState 0x01 0x01 0x0040).fetchedOpcode ≠ 0xCB ∧ (pendingState 0x01 0x01 0x0040).envTurn.pending ≠ 0) ∧
    (S0.status = .running ∧ boundByte S0.fetchedOpcode = true ∧ S0.fetchedOpcode ≠ 0xCB ∧ S0.envTurn.pending = 0) := by decide +kernel
theorem witness_FaultingStepKeepsThePolledState :
    (faultState.status = .running ∧ boundByte faultState.fetchedOpcode = false) ∧
    ((at_ 0xFFFF [0xCB, 0x11]).status = .running ∧ (at_ 0xFFFF [0xCB, 0x11]).fetchedOpcode = 0xCB) := by decide +kernel
theorem witness_FaultedMachineHasNoStep :
    ({ S0 with status := .faulted .secondary 0x37 0x0150 } : State).status = .faulted .secondary 0x37 0x0150 := rfl
theorem witness_StepKeepsTheInvariant : S0.Inv ∧ ∃ t, step S0 = .next t :=
  ⟨⟨rfl, fun c hc => absurd hc (by simp [S0, State.resetFor]), by decide, rfl, by decide, by decide⟩, _, rfl⟩
theorem witness_FlagLowNibbleStaysZero :
    S0.reg8 .f &&& 0x0F = 0 ∧ (∃ t, step S0 = .next t) ∧ ∃ t, exec .xorA S0 = .next t ∧ t.reg8 .f ≠ S0.reg8 .f :=
  ⟨by decide, ⟨_, rfl⟩, _, rfl, by decide +kernel⟩
theorem witness_StepKeepsTheImage : ∃ t, step S0 = .next t := ⟨_, rfl⟩
theorem witness_BankStaysInRange :
    S0.BankInRange ∧ ({ S0 with romBank := 31 } : State).BankInRange ∧ ∃ t, step S0 = .next t :=
  ⟨⟨by decide, by decide⟩, ⟨by decide, by decide⟩, _, rfl⟩
theorem witness_SignalInterruptSetsOneBit : Memory.wf (S0.setIf 0xE1).mem = true ∧ (0xFF0E : Word) ≠ 0xFF0F := by decide +kernel
theorem witness_JoypadPress :
    (0x21#8 &&& 0xF0 &&& ({ S0 with joyCol := 0x20 } : State).joyCol ≠ 0) ∧
    (({ S0 with joyCol := 0x20, joyRow := 0x0E } : State).joyRow &&& 0xF0 = 0 ∧
      ({ S0 with joyCol := 0x20, joyRow := 0x0E } : State).joyRow &&& (0x21#8 &&& 0x0F) = 0) := by decide +kernel
theorem witness_JoypadRelease :
    Memory.wf ({ S0 with joyCol := 0x20 } : State).mem = true ∧ 0x21#8 &&& 0xF0 &&& ({ S0 with joyCol := 0x20 } : State).joyCol ≠ 0 ∧
    (0xFF01 : Word) ≠ 0xFF00 ∧ (0xFF01 : Word) ≠ 0xFF0F := by decide +kernel
theorem witness_UnsolicitedEventIsDropped : 0x12#8 &&& 0xF0 &&& ({ S0 with joyCol := 0x20 } : State).joyCol = 0 := by decide +kernel
theorem witness_EnvironmentStaysInItsWindow :
    (0xFF01 ≤ (0xFF01#16).toNat ∧ (0xFF7F#16).toNat ≤ 0xFF7F ∧ Memory.wf S0.mem = true) ∧
    ((0xFF00#16).toNat < 0xFF01 ∧ 0xFF7F < (0xFF80#16).toNat) ∧ (0xFEFF#16).toNat < 0xFF00 ∧
    (({ S0 with env := [[.setHaltStop], []] } : State).status = .running ∧
      ({ S0 with env := [[.setHaltStop], []] } : State).env = [.setHaltStop] :: [[]]) ∧
    (({ S0 with env := [[]] } : State).status = .running ∧ ({ S0 with env := [[]] } : State).env = [[]]) := by decide +kernel
theorem witness_EnvironmentStaysInItsWindow_step : ∃ t, step { S0 with env := [[.setHaltStop], []] } = .next t := ⟨_, rfl⟩
theorem witness_ResetOfTheRest : InStorage 0x8000 ∧ InStorage 0xFF01 ∧ InStorage 0xFFFE := by
  refine ⟨?_, ?_, ?_⟩ <;> unfold InStorage <;> decide

end Sys2Proof.Tests
end

section
/-! SUPPORT. The instructions by family, what a handler of a family answers, and what a step is made of. -/

namespace Sys2Proof

/-- The case split that a proof over all instructions follows: the 49 loads by their registers (spec/43_loads.md R120), the seven
XORs by theirs (spec/44_alu.md R124, R125), and every other instruction by its name. -/
theorem Instr.casesByFamily {motive : Instr → Prop} (i : Instr)
    (load : ∀ i dst src, i.loadRegs = some (dst, src) → motive i) (xor : ∀ i r, i.xorReg = some r → motive i)
    (nop : motive .nop) (jr : ∀ e, motive (.jr e)) (jrNz : ∀ e, motive (.jrNz e)) (jrZ : ∀ e, motive (.jrZ e))
    (ldAN : ∀ n, motive (.ldAN n)) (jp : ∀ nn, motive (.jp nn)) (call : ∀ nn, motive (.call nn))
    (ldhNA : ∀ n, motive (.ldhNA n)) (ldNnA : ∀ nn, motive (.ldNnA nn)) (ldhAN : ∀ n, motive (.ldhAN n))
    (di : motive .di) (ei : motive .ei) (cp : ∀ n, motive (.cp n)) (prefixCb : ∀ op2, motive (.prefixCb op2))
    (undefinedOpcode : ∀ op, motive (.undefinedOpcode op)) : motive i := by
  rcases hl : i.loadRegs with _ | ⟨dst, src⟩
  · rcases hx : i.xorReg with _ | r
    · cases i <;> cases hl <;> cases hx
      exacts [nop, jr _, jrNz _, jrZ _, ldAN _, jp _, call _, ldhNA _, ldNnA _, ldhAN _, di, ei, cp _, prefixCb _,
        undefinedOpcode _]
    · exact xor i r hx
  · exact load i dst src hl

end Sys2Proof

namespace Sys2Proof.Machine

/-- No LD r,r' has F as its destination (spec/30_encoding.md R87). -/
theorem dst_ne_f_of_loadRegs {i : Instr} {dst src : Reg8} (h : i.loadRegs = some (dst, src)) : dst ≠ .f := by
  cases i <;> cases h <;> exact nofun

/-- The handler of an LD r,r' copies the register and advances (spec/43_loads.md R120). -/
theorem exec_of_loadRegs {i : Instr} {dst src : Reg8} (h : i.loadRegs = some (dst, src)) (s : State) :
    exec i s = .next (loadReg dst src s) := by
  cases i <;> cases h <;> rfl

/-- XOR r on A itself is the fast path of XOR A (spec/44_alu.md R124, R125). -/
theorem execXorA_eq (s : State) : execXorA s = .next (xorReg .a s) := by
  simp [execXorA, xorReg, xorFlags]

/-- The handler of an XOR, XOR A included (spec/44_alu.md R124, R125). -/
theorem exec_of_xorReg {i : Instr} {r : Reg8} (h : i.xorReg = some r) (s : State) : exec i s = .next (xorReg r s) := by
  cases i <;> cases h
  case xorA => exact execXorA_eq s
  all_goals rfl

/-- A step that answers a next state: the handler of the instruction fetched at `atFetch`, then stages 6 and 7
(spec/40_dispatch.md R98). -/
theorem step_next_inv {s t : State} (h : step s = .next t) :
    ∃ u, exec s.atFetch.fetchInstr.1 s.atFetch = .next u ∧ t = u.finishStep s.atFetch.fetchInstr.1 := by
  rcases hs : s.status with _ | ⟨table, key, addr⟩
  · rw [step_running hs, execute_eq, ← State.atFetch] at h
    split at h
    · next u hu => cases h; exact ⟨u, hu, rfl⟩
    · cases h
    · cases h
  · simp [step, State.stepOnce, hs] at h

/-- The environment's turn and the poll write no register view. -/
@[simp] theorem reg8_atFetch (s : State) (r : Reg8) : s.atFetch.reg8 r = s.reg8 r := by
  cases r <;> simp [State.atFetch, State.reg8]

/-- Stages 6 and 7 write no register view. -/
@[simp] theorem reg8_finishStep (i : Instr) (s : State) (r : Reg8) : (s.finishStep i).reg8 r = s.reg8 r := by
  unfold State.finishStep
  split
  · cases r <;> simp [State.reg8]
  · rfl

end Sys2Proof.Machine
end

section
/-! PROOF. F's low nibble (spec/10_state.md R28): every handler leaves F or writes one of `flags(z, n, h, c)`. -/

namespace Sys2Proof.Machine

theorem flags_lowNibble (z n h c : Bool) : flags z n h c &&& 0x0F = 0 := by
  revert z n h c
  decide

/-- Writing A leaves the other byte of its word. -/
@[simp] theorem f_setReg8_a (s : State) (v : Byte) : (s.setReg8 .a v).reg8 .f = s.reg8 .f :=
  reg8_setReg8_ne s (by decide) v

theorem writesFlags_of_xorReg {i : Instr} {r : Reg8} (h : i.xorReg = some r) : writesFlags i = true := by
  cases i <;> cases h <;> rfl

/-- Where R29 lists no writer of F, the handler leaves F. -/
theorem exec_leaves_f {i : Instr} {s t : State} (hi : writesFlags i = false) (h : exec i s = .next t) :
    t.reg8 .f = s.reg8 .f := by
  cases i using Instr.casesByFamily with
  | load i dst src hl =>
    cases (exec_of_loadRegs hl s).symm.trans h
    exact loadReg_reg8_ne (dst_ne_f_of_loadRegs hl).symm src s
  | xor i r hx => exact absurd (writesFlags_of_xorReg hx) (by simp [hi])
  | nop => cases h; exact reg8_advance ..
  | jr e => cases h; exact relativeJump_reg8 ..
  | jrNz e => cases h; exact relativeJump_reg8 ..
  | jrZ e => cases h; exact relativeJump_reg8 ..
  | ldAN n => cases h; simp
  | jp nn => cases h; exact reg8_setPc ..
  | call nn => cases h; exact (reg8_setPc ..).trans (reg8_push16 ..)
  | ldhNA n => cases h; exact (reg8_advance ..).trans (reg8_write8 ..)
  | ldNnA nn => cases h; exact (reg8_advance ..).trans (reg8_write8 ..)
  | ldhAN n => cases h; simp
  | di => cases h; exact (reg8_advance ..).trans (reg8_armToggle ..)
  | ei => cases h; exact (reg8_advance ..).trans (reg8_armToggle ..)
  | cp n => cases hi
  | prefixCb op2 => cases h; exact reg8_raiseUndefinedOpcode ..
  | undefinedOpcode op => cases h; exact reg8_raiseUndefinedOpcode ..

/-- The writers of F, XOR and CP, write it by `flags` (spec/44_alu.md R124 to R126). -/
theorem exec_writes_flags {i : Instr} {s t : State} (hi : writesFlags i = true) (h : exec i s = .next t) :
    ∃ z n h c, t.reg8 .f = flags z n h c := by
  rcases hx : i.xorReg with _ | r
  · obtain ⟨n, rfl⟩ : ∃ n, i = .cp n := by
      cases i <;> cases hx <;> cases hi
      exact ⟨_, rfl⟩
    cases h
    exact ⟨_, _, _, _, (reg8_advance ..).trans (reg8_setReg8_self ..)⟩
  · cases (exec_of_xorReg hx s).symm.trans h
    exact ⟨_, _, _, _, xorReg_f r s⟩

/-- All that a handler can do to F. -/
theorem exec_f_cases {i : Instr} {s t : State} (h : exec i s = .next t) :
    t.reg8 .f = s.reg8 .f ∨ ∃ z n h c, t.reg8 .f = flags z n h c := by
  cases hi : writesFlags i
  · exact .inl (exec_leaves_f hi h)
  · exact .inr (exec_writes_flags hi h)

/-- A handler keeps F's low nibble at 0. -/
theorem exec_keeps_f_lowNibble {i : Instr} {s t : State} (hs : s.reg8 .f &&& 0x0F = 0) (h : exec i s = .next t) :
    t.reg8 .f &&& 0x0F = 0 := by
  obtain hf | ⟨z, n, hc, c, hf⟩ := exec_f_cases h
  · rw [hf, hs]
  · rw [hf, flags_lowNibble]

/-- A step keeps F's low nibble at 0: outside its handler nothing in it writes F. -/
theorem step_keeps_f_lowNibble {s t : State} (hs : s.reg8 .f &&& 0x0F = 0) (h : step s = .next t) :
    t.reg8 .f &&& 0x0F = 0 := by
  obtain ⟨u, hu, rfl⟩ := step_next_inv h
  rw [reg8_finishStep]
  exact exec_keeps_f_lowNibble (by rwa [reg8_atFetch]) hu

/-- Settles O51: a step's only writers of F are the handlers of XOR and CP, and each writes a value of `flags`. -/
theorem flagLowNibbleStaysZero : Obligations.FlagLowNibbleStaysZero :=
  ⟨fun v _ => loByte_mkWord (seed v) 0xB0, fun _ _ => step_keeps_f_lowNibble,
    fun _ _ _ h hne => (exec_f_cases h).resolve_left hne, flags_lowNibble⟩

end Sys2Proof.Machine
end

section
/-! PROOF. The register views against their words (spec/10_state.md R22, R23). -/

namespace Sys2Proof.Machine

theorem hiByte_eq_extractLsb (w : Word) : hiByte w = w.extractLsb 15 8 := rfl

theorem loByte_eq_extractLsb (w : Word) : loByte w = w.extractLsb 7 0 := rfl

/-- The mask that keeps a word's low byte, bit by bit. -/
theorem getLsbD_lowMask : ∀ i < 16, (0x00FF : Word).getLsbD i = decide (i < 8) := by decide

/-- The mask that keeps a word's high byte, bit by bit. -/
theorem getLsbD_highMask : ∀ i < 16, (0xFF00 : Word).getLsbD i = decide (8 ≤ i) := by decide

/-- A new high byte over a word's low byte, as R23 writes it. -/
theorem mkWord_loByte (v : Byte) (w : Word) : mkWord v (loByte w) = (v.zeroExtend 16 <<< 8) ||| (w &&& 0x00FF) := by
  apply BitVec.eq_of_getLsbD_eq
  intro i hi
  rw [getLsbD_mkWord, BitVec.getLsbD_or, BitVec.getLsbD_and, getLsbD_lowMask i hi]
  by_cases h : i < 8
  · simp [loByte, h]
  · simp [h, hi]

/-- A new low byte under a word's high byte, as R23 writes it. -/
theorem mkWord_hiByte (v : Byte) (w : Word) : mkWord (hiByte w) v = (w &&& 0xFF00) ||| v.zeroExtend 16 := by
  apply BitVec.eq_of_getLsbD_eq
  intro i hi
  rw [getLsbD_mkWord, BitVec.getLsbD_or, BitVec.getLsbD_and, getLsbD_highMask i hi]
  by_cases h : i < 8
  · simp [h, hi]
  · have hge : 8 ≤ i := by omega
    have hlt : i - 8 < 8 := by omega
    simp [hiByte, h, hi, hge, hlt]

/-- Settles O6: R22's reads are the halves of the word, and R23's two masked forms are the word of the new byte and the kept one. -/
theorem registerViewsAliasTheirWord : Obligations.RegisterViewsAliasTheirWord := by
  refine ⟨fun s => ?_, fun s v => ?_, fun s w => ?_⟩
  · exact ⟨hiByte_eq_extractLsb s.af, loByte_eq_extractLsb s.af, hiByte_eq_extractLsb s.bc, loByte_eq_extractLsb s.bc,
      hiByte_eq_extractLsb s.de, loByte_eq_extractLsb s.de, hiByte_eq_extractLsb s.hl, loByte_eq_extractLsb s.hl⟩
  · simp only [State.setReg8, mkWord_loByte, mkWord_hiByte, and_self]
  · have views := And.intro (hiByte_eq_extractLsb w) (loByte_eq_extractLsb w)
    exact ⟨views, views, views, views⟩

end Sys2Proof.Machine
end

section
/-! PROOF. Byte accesses to the ROM region and to IE (spec/20_memory.md R54, R55, R66). -/

namespace Sys2Proof.Machine

/-- The write of a ROM address, in either bank, is the bank select or nothing (R54, R55). -/
theorem write8_of_le_romEnd (s : State) {a : Word} (v : Byte) (h : a.toNat ≤ 0x7FFF) :
    s.write8 a v = if isBankSelect a then { s with romBank := newBank v s.romBank } else s := by
  rcases Nat.lt_or_ge a.toNat 0x4000 with hfix | hsw
  · simp only [State.write8, regionOf_romFixed (Nat.le_of_lt_succ hfix)]
  · simp only [State.write8, regionOf_romSwitch hsw h]

/-- The read of an address in IE's region gives IE (R66). -/
theorem read8_of_regionOf_ie (s : State) {a : Word} (h : regionOf a = .ie) : s.read8 a = s.ie := by
  simp only [State.read8, h]

/-- The write of an address in IE's region sets IE, all eight bits (R66). -/
theorem write8_of_regionOf_ie (s : State) {a : Word} (v : Byte) (h : regionOf a = .ie) :
    s.write8 a v = { s with ie := v } := by
  simp only [State.write8, h]

/-- Settles O8: no byte write changes the image, and the write of a ROM address is the bank select or nothing. -/
theorem romWritesNeverChangeTheImage : Obligations.RomWritesNeverChangeTheImage := by
  refine fun s a v ha => ⟨write8_rom s a v, write8_romLen s a v, fun hsel => ?_⟩
  rw [write8_of_le_romEnd s v ha, hsel]
  exact if_neg Bool.false_ne_true

/-- Settles O12: 0xFFFF is the one address of IE's region. -/
theorem interruptEnableRegister : Obligations.InterruptEnableRegister :=
  have hie : regionOf 0xFFFF = .ie := regionOf_ie rfl
  fun s v => ⟨read8_of_regionOf_ie s hie, write8_of_regionOf_ie s v hie⟩

end Sys2Proof.Machine
end

section
/-! SUPPORT. What the step of a running and of a faulted machine answers (spec/40_dispatch.md R98, R110). -/

namespace Sys2Proof.Machine

/-- A step whose handler answers a next state ends with stages 6 and 7 of the fetched instruction (R98). -/
theorem step_of_exec_next {s u : State} (h : s.status = .running)
    (hu : exec s.atFetch.fetchInstr.1 s.atFetch = .next u) : step s = .next (u.finishStep s.atFetch.fetchInstr.1) := by
  rw [step_running h, execute_eq, ← State.atFetch, hu]

/-- The step of a faulted machine is the fault it has on record (R110). -/
theorem step_faulted {s : State} {table : Table} {key : Byte} {addr : Word} (h : s.status = .faulted table key addr) :
    step s = .fault (.undefinedOpcode table key addr) := by
  simp [step, State.stepOnce, h]

@[simp] theorem atFetch_status (s : State) : s.atFetch.status = s.status := by simp [State.atFetch]

end Sys2Proof.Machine
end

section
/-! SUPPORT. The instructions that a table entry builds, against the byte that keys it (spec/30_encoding.md R83, R91). -/

namespace Sys2Proof

/-- The instruction that an entry gives when the two bytes after its opcode byte are `b1` and `b2`, of which it reads as many as its
format has (R83, R86). -/
def Form.build : Form → Byte → Byte → Instr
  | .op i, _, _ => i
  | .opN build, b1, _ => build b1
  | .opNN build, b1, b2 => build (Machine.mkWord b2 b1)

/-- The instruction is well formed and its first byte is `op`. -/
def Instr.BeginsWith (i : Instr) (op : Byte) : Prop := WellFormed i ∧ (encode i).headD 0 = op

theorem mem_of_findRow_eq_some {rows : List Row} {op : Byte} {f : Form} (h : findRow rows op = some f) : (op, f) ∈ rows := by
  induction rows with
  | nil => cases h
  | cons row rows ih =>
    rw [findRow] at h
    split at h
    · next heq =>
      cases heq
      cases h
      exact List.mem_cons_self
    · exact List.mem_cons_of_mem _ (ih h)

/-- Every row of the primary table builds instructions that begin with the row's byte (R91). -/
theorem primaryRows_beginsWith : ∀ row ∈ primaryRows, ∀ b1 b2, (row.2.build b1 b2).BeginsWith row.1 := by
  simp only [primaryRows, rowsPlain, rowsLdB, rowsLdC, rowsLdD, rowsLdE, rowsLdH, rowsLdL, rowsLdA, rowsXor, rowsHigh,
    List.forall_mem_append, List.forall_mem_cons, List.not_mem_nil, IsEmpty.forall_iff, implies_true, and_true]
  and_intros <;> exact fun _ _ => ⟨rfl, rfl⟩

/-- The primary table's entry of a byte, bound or not, builds instructions that begin with that byte (R91, R93). -/
theorem formOf_beginsWith (op b1 b2 : Byte) : ((formOf op).build b1 b2).BeginsWith op := by
  cases hb : boundByte op
  · have hw : WellFormed (.undefinedOpcode op) := by simp [WellFormed, Instr.wellFormed, hb]
    rw [formOf_unbound hw]
    exact ⟨hw, rfl⟩
  · rw [← findRow_isSome, Option.isSome_iff_exists] at hb
    obtain ⟨f, hf⟩ := hb
    simp only [formOf, hf]
    exact primaryRows_beginsWith _ (mem_of_findRow_eq_some hf) b1 b2

/-- The entry of every instruction but that of 0xCB is the primary table's at its first byte (spec/40_dispatch.md R102). -/
theorem Instr.entry_eq_primary {i : Instr} (h : ∀ key, i ≠ .prefixCb key) : i.entry = (.primary, (encode i).headD 0) := by
  cases i
  case prefixCb key => exact absurd rfl (h key)
  all_goals rfl

/-- An instruction of a bound byte is neither of the two that raise the fault (spec/40_dispatch.md R104). -/
theorem Instr.BeginsWith.ne_prefixCb_and_ne_undefinedOpcode {i : Instr} {op : Byte} (h : i.BeginsWith op)
    (hb : boundByte op = true) (hcb : op ≠ 0xCB) : (∀ key, i ≠ .prefixCb key) ∧ ∀ k, i ≠ .undefinedOpcode k := by
  obtain ⟨hw, rfl⟩ := h
  refine ⟨?_, ?_⟩
  · rintro key rfl
    exact hcb rfl
  · rintro k rfl
    have hk : boundByte k = true := hb
    simp [WellFormed, Instr.wellFormed, hk] at hw

end Sys2Proof

namespace Sys2Proof.Machine

/-- A fetch gives the instruction that the entry of the byte at `pc` builds from the two bytes after it (spec/40_dispatch.md R101 to
R103). -/
theorem fetchInstr_fst (s : State) :
    s.fetchInstr.1 = (formOf (s.read8 s.pc)).build (s.read8 (s.pc + 1)) (s.read8 (s.pc + 1 + 1)) := by
  simp only [State.fetchInstr, noteRead_eq, read16_eq]
  cases formOf (s.read8 s.pc) <;> rfl

/-- A fetch gives a well-formed instruction that begins with the byte at `pc` (spec/40_dispatch.md R101). -/
theorem fetchInstr_beginsWith (s : State) : s.fetchInstr.1.BeginsWith (s.read8 s.pc) := by
  rw [fetchInstr_fst]
  exact formOf_beginsWith ..

end Sys2Proof.Machine
end

section
/-! PROOF. Cycle accounting and the end of a run (spec/40_dispatch.md R105 to R107, R110). -/

namespace Sys2Proof.Machine

/-- The handler of every instruction that raises no fault answers a next state with the same `status` and the same `cycles`: the
cost is stage 6's alone (R105, R106). -/
theorem exec_keeps_status_and_cycles {i : Instr} (hp : ∀ key, i ≠ .prefixCb key) (hu : ∀ op, i ≠ .undefinedOpcode op)
    (s : State) : ∃ t, exec i s = .next t ∧ t.status = s.status ∧ t.cycles = s.cycles := by
  cases i using Instr.casesByFamily with
  | load i dst src hl => exact ⟨_, exec_of_loadRegs hl s, loadReg_status .., loadReg_cycles ..⟩
  | xor i r hx => exact ⟨_, exec_of_xorReg hx s, xorReg_status .., xorReg_cycles ..⟩
  | nop => exact ⟨_, rfl, advance_status .., advance_cycles ..⟩
  | jr e => exact ⟨_, rfl, relativeJump_status .., relativeJump_cycles ..⟩
  | jrNz e => exact ⟨_, rfl, relativeJump_status .., relativeJump_cycles ..⟩
  | jrZ e => exact ⟨_, rfl, relativeJump_status .., relativeJump_cycles ..⟩
  | ldAN n => exact ⟨_, rfl, setReg8_status .., setReg8_cycles ..⟩
  | jp nn => exact ⟨_, rfl, setPc_status .., setPc_cycles ..⟩
  | call nn => exact ⟨_, rfl, push16_status .., push16_cycles ..⟩
  | ldhNA n => exact ⟨_, rfl, write8_status .., write8_cycles ..⟩
  | ldNnA nn => exact ⟨_, rfl, write8_status .., write8_cycles ..⟩
  | ldhAN n => exact ⟨_, rfl, by simp, by simp⟩
  | di => exact ⟨_, rfl, armToggle_status .., armToggle_cycles ..⟩
  | ei => exact ⟨_, rfl, armToggle_status .., armToggle_cycles ..⟩
  | cp n => exact ⟨_, rfl, setReg8_status .., setReg8_cycles ..⟩
  | prefixCb op2 => exact absurd rfl (hp op2)
  | undefinedOpcode op => exact absurd rfl (hu op)

/-- Settles O46: the fetched instruction is one of the byte's entry, its handler changes neither `status` nor `cycles`, and stage 6
adds the entry's cost. -/
theorem costIsTheEntrysWhateverTheOutcome : Obligations.CostIsTheEntrysWhateverTheOutcome := by
  intro s hrun hbound hcb
  have hbegins : s.atFetch.fetchInstr.1.BeginsWith s.fetchedOpcode := fetchInstr_beginsWith s.atFetch
  obtain ⟨hnotCb, hundef⟩ := hbegins.ne_prefixCb_and_ne_undefinedOpcode hbound hcb
  obtain ⟨-, hfirst⟩ := hbegins
  have hentry : s.atFetch.fetchInstr.1.entry = (.primary, s.fetchedOpcode) := by
    rw [Instr.entry_eq_primary hnotCb, hfirst]
  obtain ⟨u, hexec, hstatus, hcycles⟩ := exec_keeps_status_and_cycles hnotCb hundef s.atFetch
  have hurun : u.status = .running := by rw [hstatus, atFetch_status, hrun]
  refine ⟨_, step_of_exec_next hrun hexec, ?_, ?_⟩
  · simp [hurun]
  · simp [hurun, hentry, hcycles]

/-- Settles O48: the step of a faulted machine is its fault. -/
theorem faultedMachineHasNoStep : Obligations.FaultedMachineHasNoStep := by
  intro s t table key addr hs
  rw [step_faulted hs]
  exact nofun

end Sys2Proof.Machine
end

section
/-! PROOF. The encoder against the decoder (spec/30_encoding.md R83 to R93): an entry builds instructions that are spelled by its byte
and by as many of the next two as its format reads. -/

namespace Sys2Proof

open Machine

/-- Every row of the primary table builds instructions whose bytes are the row's byte and its operand bytes (R83, R91). -/
theorem encode_build_primaryRows :
    ∀ row ∈ primaryRows, ∀ b1 b2, encode (row.2.build b1 b2) = [row.1, b1, b2].take row.2.length := by
  simp only [primaryRows, rowsPlain, rowsLdB, rowsLdC, rowsLdD, rowsLdE, rowsLdH, rowsLdL, rowsLdA, rowsXor, rowsHigh,
    List.forall_mem_append, List.forall_mem_cons, List.not_mem_nil, IsEmpty.forall_iff, implies_true, and_true]
  and_intros <;> intro b1 b2 <;> simp [Form.build, Form.length, encode]

/-- The primary table's entry of a byte, bound or not, builds instructions spelled by that byte and its operand bytes (R83, R93). -/
theorem encode_build_formOf (op b1 b2 : Byte) :
    encode ((formOf op).build b1 b2) = [op, b1, b2].take (formOf op).length := by
  cases hb : boundByte op
  · have hw : WellFormed (.undefinedOpcode op) := by simp [WellFormed, Instr.wellFormed, hb]
    rw [formOf_unbound hw]
    rfl
  · rw [← findRow_isSome, Option.isSome_iff_exists] at hb
    obtain ⟨f, hf⟩ := hb
    simp only [formOf, hf]
    exact encode_build_primaryRows _ (mem_of_findRow_eq_some hf) b1 b2

/-- A byte list that decodes is an opcode byte and what follows it, and its instruction is the one that the byte's entry builds from
the operand bytes (R83, R86). -/
theorem decode_eq_ok {bs : List Byte} {i : Instr} {rest : List Byte} (h : decode bs = .ok (i, rest)) :
    ∃ op b1 b2, i = (formOf op).build b1 b2 ∧ bs = [op, b1, b2].take (formOf op).length ++ rest := by
  cases bs with
  | nil => cases h
  | cons op tail =>
    simp only [decode] at h
    cases hf : formOf op with
    | op j =>
      simp only [hf] at h
      cases h
      exact ⟨op, 0, 0, by rw [hf, Form.build], by rw [hf]; rfl⟩
    | opN build =>
      rcases tail with _ | ⟨n, tail⟩ <;> simp only [hf] at h <;> cases h
      exact ⟨op, n, 0, by rw [hf, Form.build], by rw [hf]; rfl⟩
    | opNN build =>
      rcases tail with _ | ⟨lo, _ | ⟨hi, tail⟩⟩ <;> simp only [hf] at h <;> cases h
      exact ⟨op, lo, hi, by rw [hf, Form.build], by rw [hf]; rfl⟩

/-- The first byte of an unbound opcode decodes alone (R93). -/
theorem decode_of_unbound {op : Byte} (h : WellFormed (.undefinedOpcode op)) (rest : List Byte) :
    decode (op :: rest) = .ok (.undefinedOpcode op, rest) := by
  simp only [decode, formOf_unbound h]

/-- The instruction that the byte `01dddsss` decodes to, with the register codes of R87 in its fields, is the load of those registers
(R85). -/
theorem loadRegs_of_fields {dst r : Reg8} {cd cr : BitVec 3} (hd : regCode dst = some cd) (hr : regCode r = some cr) :
    ((formOf (0b01#2 ++ cd ++ cr)).build 0 0).loadRegs = some (dst, r) := by
  cases dst <;> cases hd <;> cases r <;> cases hr <;> rfl

/-- The instruction that the byte `10101sss` decodes to is the XOR of the register whose code is in its field (R85). -/
theorem xorReg_of_field {r : Reg8} {c : BitVec 3} (h : regCode r = some c) :
    ((formOf (0b10101#5 ++ c)).build 0 0).xorReg = some r := by
  cases r <;> cases h <;> rfl

/-- Every view but F has a register code (R87). -/
theorem exists_regCode {r : Reg8} (h : r ≠ .f) : ∃ c, regCode r = some c := by
  cases r
  case f => exact absurd rfl h
  all_goals exact ⟨_, rfl⟩

/-- Settles O1: the row of an instruction's first byte rebuilds it from its operand bytes, a word from its two bytes. -/
theorem decodeOfEncode : Obligations.DecodeOfEncode := by
  intro i hw rest
  cases i
  case jp nn => exact congrArg (fun w => Except.ok (Instr.jp w, rest)) (mkWord_bytes nn)
  case call nn => exact congrArg (fun w => Except.ok (Instr.call w, rest)) (mkWord_bytes nn)
  case ldNnA nn => exact congrArg (fun w => Except.ok (Instr.ldNnA w, rest)) (mkWord_bytes nn)
  case undefinedOpcode op => exact decode_of_unbound hw rest
  all_goals rfl

/-- Settles O2: what decodes is built by the entry of its first byte, and the entry spells what it builds. -/
theorem encodeOfDecode : Obligations.EncodeOfDecode := by
  intro bs i rest h
  obtain ⟨op, b1, b2, rfl, rfl⟩ := decode_eq_ok h
  exact ⟨(formOf_beginsWith op b1 b2).1, by rw [encode_build_formOf]⟩

/-- Settles O3: each load and XOR has its registers' codes in its byte, and each byte with such codes is that of a load or an XOR. -/
theorem registerFieldsOfLoadAndXor : Obligations.RegisterFieldsOfLoadAndXor := by
  refine ⟨fun i dst r h => ?_, fun i r h => ?_, fun dst r hd hr => ?_, fun r hr => ?_⟩
  · cases i <;> cases h <;> exact ⟨_, _, rfl, rfl, rfl⟩
  · cases i <;> cases h <;> exact ⟨_, rfl, rfl⟩
  · obtain ⟨cd, hcd⟩ := exists_regCode hd
    obtain ⟨cr, hcr⟩ := exists_regCode hr
    exact ⟨_, loadRegs_of_fields hcd hcr⟩
  · obtain ⟨c, hc⟩ := exists_regCode hr
    exact ⟨_, xorReg_of_field hc⟩

/-- Settles O4: an unbound byte has no row, 0xCB has the row that takes a key, and the count runs over the 256 bytes. -/
theorem unboundBytesAreUndefinedOpcodes : Obligations.UnboundBytesAreUndefinedOpcodes := by
  refine ⟨fun op rest h => decode_of_unbound ?_ rest, fun _ _ => rfl, by decide +kernel⟩
  simp [WellFormed, Instr.wellFormed, h]

/-- Settles O5: each word is the bytes of the instruction it spells, so it decodes to it. -/
theorem specWordsDecode : Obligations.SpecWordsDecode :=
  have spelled (i : Instr) (hw : WellFormed i) : decode (encode i ++ []) = .ok (i, []) := decodeOfEncode i hw []
  ⟨spelled .nop rfl, spelled (.jr 0x05) rfl, spelled (.jrNz 0xFC) rfl, spelled (.jrZ 0x02) rfl, spelled (.jp 0xC000) rfl,
    spelled (.call 0x0300) rfl, spelled .ldAB rfl, spelled .xorC rfl, spelled (.ldNnA 0xE123) rfl, spelled (.cp 0x05) rfl,
    spelled .di rfl, spelled .ei rfl, spelled (.prefixCb 0x37) rfl⟩

end Sys2Proof
end

section
/-! PROOF. The bus (spec/20_memory.md R50 to R72): the addresses of `InStorage` are the plain ones, two of them in a row name two
bytes, and a word is its two bytes. -/

namespace Sys2Proof.Machine

/-- The addresses that the statements call storage are plain: their reads and writes go to a byte of `mem` (R50, R51). -/
theorem isPlain_of_inStorage {a : Word} (h : InStorage a) : isPlain a = true := by
  have hb := region_bounds a
  unfold InStorage at h
  unfold isPlain
  cases hr : regionOf a <;> simp only [hr] at hb ⊢
  case io =>
    have hp : ¬ periphSet.contains a = true := fun hp => by
      rw [(periphSet_contains_iff a).mp hp] at h
      simp at h
    simpa using hp
  all_goals omega

/-- Work RAM and its echo name the same bytes (R59). -/
theorem storageKey_add_echo {a : Word} (h : 0xC000 ≤ a.toNat) (h' : a.toNat ≤ 0xDDFF) :
    storageKey (a + 0x2000) = storageKey a := by
  have hsum : (a + 0x2000).toNat = a.toNat + 0x2000 := by
    rw [BitVec.toNat_add]
    exact Nat.mod_eq_of_lt (by simp; omega)
  have hecho : regionOf (a + 0x2000) = .echo := regionOf_echo (by omega) (by omega)
  have hwram : regionOf a = .wram := regionOf_wram h (by omega)
  simp only [storageKey, hecho, hwram]
  omega

/-- Two storage addresses in a row name two bytes (R59). -/
theorem storageKey_add_one_ne {a : Word} (h : InStorage a) (h' : InStorage (a + 1)) : storageKey (a + 1) ≠ storageKey a := by
  have hb := region_bounds a
  have hb' := region_bounds (a + 1)
  unfold InStorage at h h'
  have hsum : (a + 1).toNat = a.toNat + 1 := by
    rw [BitVec.toNat_add]
    exact Nat.mod_eq_of_lt (by simp; omega)
  unfold storageKey
  cases hr : regionOf a <;> cases hr' : regionOf (a + 1) <;> simp only [hr, hr'] at hb hb' ⊢ <;> omega

/-- A storage byte reads back what was written to it (R56 to R62). -/
theorem read8_write8_of_inStorage {s : State} {a : Word} (v : Byte) (hw : Memory.wf s.mem = true) (h : InStorage a) :
    (s.write8 a v).read8 a = v :=
  read8_write8_self s v hw (isPlain_of_inStorage h) (isPlain_of_inStorage h) rfl

/-- A byte write keeps memory canonical. -/
theorem memWf_write8 {s : State} (a : Word) (v : Byte) (h : Memory.wf s.mem = true) : Memory.wf (s.write8 a v).mem = true := by
  rcases write8_cases s a v with ⟨e, -⟩ | e | e | e | e <;> rw [e]
  case inr.inr.inl => exact Memory.wf_write _ v h
  all_goals exact h

/-- The low byte of a word written to storage reads back at the word's address (R70, R72). -/
theorem read8_write16_lo {s : State} {a : Word} (w : Word) (hw : Memory.wf s.mem = true) (h : InStorage a) (h' : InStorage (a + 1)) :
    (s.write16 a w).read8 a = loByte w := by
  rw [State.write16, write8_plain _ _ (isPlain_of_inStorage h'), read8_store_ne _ _ (storageKey_add_one_ne h h').symm,
    read8_write8_of_inStorage _ hw h]

/-- The high byte of a word written to storage reads back above the word's address (R70, R72). -/
theorem read8_write16_hi {s : State} {a : Word} (w : Word) (hw : Memory.wf s.mem = true) (h' : InStorage (a + 1)) :
    (s.write16 a w).read8 (a + 1) = hiByte w :=
  read8_write8_of_inStorage _ (memWf_write8 _ _ hw) h'

/-- A word written to storage reads back (R69, R70). -/
theorem read16_write16 {s : State} {a : Word} (w : Word) (hw : Memory.wf s.mem = true) (h : InStorage a) (h' : InStorage (a + 1)) :
    (s.write16 a w).read16 a = w := by
  rw [read16_eq, read8_write16_lo w hw h h', read8_write16_hi w hw h', mkWord_bytes]

/-- A word as the number its bytes make (spec/00_scope.md R12). -/
theorem mkWord_eq_ofNat (hi lo : Byte) : mkWord hi lo = BitVec.ofNat 16 (hi.toNat * 256 + lo.toNat) := by
  apply BitVec.eq_of_toNat_eq
  have hlo := lo.isLt
  have hhi := hi.isLt
  rw [mkWord, BitVec.toNat_append, Nat.shiftLeft_eq, Nat.mul_comm, ← Nat.two_pow_add_eq_or_of_lt hlo, BitVec.toNat_ofNat]
  omega

/-- The default `NewBank` in numbers (R55, D11). -/
theorem newBank_eq (v : Byte) (b : Nat) : newBank v b = if v.toNat % 32 = 0 then 1 else v.toNat % 32 := by
  have hmask : (v &&& 0x1F).toNat = v.toNat % 32 := by
    rw [BitVec.toNat_and]
    exact Nat.and_two_pow_sub_one_eq_mod v.toNat 5
  have hzero : v &&& 0x1F = 0 ↔ v.toNat % 32 = 0 := hmask ▸ BitVec.toNat_eq
  simp only [newBank, hzero, hmask]

/-- The read of a ROM address is the image byte that its bank shows (R52, R53). -/
theorem read8_of_romFixed (s : State) {a : Word} (h : a.toNat ≤ 0x3FFF) : s.read8 a = s.romByte a.toNat := by
  simp only [State.read8, regionOf_romFixed h]

theorem read8_of_romSwitch (s : State) {a : Word} (h : 0x4000 ≤ a.toNat) (h' : a.toNat ≤ 0x7FFF) :
    s.read8 a = s.romByte (s.bankOffset a) := by
  simp only [State.read8, regionOf_romSwitch h h']

/-- Settles O7: each bank's read is `romByte` at its offset, the sentinel past the image. -/
theorem romReadsTheImage : Obligations.RomReadsTheImage :=
  fun s _ => ⟨fun h => read8_of_romFixed s h, fun h h' => read8_of_romSwitch s h h'⟩

/-- Settles O9: in the select range the write is the bank select, and elsewhere no case of a byte write sets the bank. -/
theorem bankSelectStore : Obligations.BankSelectStore := by
  refine ⟨fun s a v h h' => ?_, fun s a v h => ?_⟩
  · have hsel : isBankSelect a = true := by simp [isBankSelect, h, h']
    rw [write8_of_le_romEnd s v (by omega), if_pos hsel, newBank_eq]
  · rcases write8_cases s a v with ⟨-, hsel, -⟩ | e | e | e | e
    · simp only [isBankSelect, Bool.and_eq_true, decide_eq_true_eq] at hsel
      omega
    all_goals exact (congrArg State.romBank e :)

/-- Settles O10: an address and its echo name one plain byte, which holds what was written last. -/
theorem storageReadsBack : Obligations.StorageReadsBack := by
  intro s a v hw h
  refine ⟨read8_write8_of_inStorage v hw h, fun hlo hhi => ?_⟩
  have hkey := storageKey_add_echo hlo hhi
  have hplain := isPlain_of_inStorage h
  have hecho : isPlain (a + 0x2000) = true := isPlain_of_inStorage (.inl (by bv_omega))
  exact ⟨read8_write8_self s v hw hplain hecho hkey, read8_write8_self s v hw hecho hplain hkey.symm⟩

/-- Settles O11: the region drops both accesses. -/
theorem unusableRegionIsUnmapped : Obligations.UnusableRegionIsUnmapped := by
  intro s a v h h'
  have hr := regionOf_unusable h h'
  exact ⟨by simp only [State.read8, hr, sentinel], by simp only [State.write8, hr]⟩

/-- Settles O13: the two bytes of the word are two bytes of storage. -/
theorem wordsAreLittleEndian : Obligations.WordsAreLittleEndian :=
  fun _ _ w hw h h' => ⟨read16_write16 w hw h h', read8_write16_lo w hw h h', read8_write16_hi w hw h'⟩

/-- Settles O14: the high byte of a word at 0xFFFF is at 0x0000, where the write of ROM is no bank select. -/
theorem wordAccessWrapsAtTheTop : Obligations.WordAccessWrapsAtTheTop := by
  intro s w
  have hwrap : (0xFFFF : Word) + 1 = 0x0000 := rfl
  have hie : regionOf 0xFFFF = .ie := regionOf_ie rfl
  constructor
  · rw [read16_eq, hwrap, read8_of_regionOf_ie s hie, mkWord_eq_ofNat]
  · rw [State.write16, hwrap, write8_of_regionOf_ie s _ hie, write8_of_le_romEnd _ _ (by decide)]
    exact if_neg (by decide)

/-- Settles O15: 0xFF00 is the one registered peripheral of the window, the joypad's register. -/
theorem joypadRegister : Obligations.JoypadRegister := by
  intro s v
  have hio : regionOf 0xFF00 = .io := regionOf_io (by decide) (by decide)
  have hp : periphSet.contains 0xFF00 = true := (periphSet_contains_iff _).mpr rfl
  constructor
  · simp only [State.read8, hio, hp, if_true, State.periphRead, State.joypadRead]
  · simp only [State.write8, hio, hp, if_true, State.periphWrite, State.joypadWrite]

end Sys2Proof.Machine
end

section
/-! PROOF. The handlers one by one (spec/41_nop.md to 45_interrupt_control.md): what each completes with, in the words of its rule. -/

namespace Sys2Proof.Machine

/-! ### Addresses -/

/-- The target of a relative jump in integers, modulo 65536 (spec/42_control.md R113). -/
theorem jrTarget_eq (pc : Word) (e : Byte) : jrTarget pc e = BitVec.ofInt 16 (pc.toNat + 2 + e.toInt) := by
  rw [BitVec.ofInt_add, BitVec.ofInt_add, BitVec.ofInt_natCast, BitVec.ofNat_toNat, BitVec.setWidth_eq]
  rfl

theorem toNat_highPage (n : Byte) : (highPage n).toNat = 0xFF00 + n.toNat := by
  have hn := n.isLt
  rw [highPage, mkWord_eq_ofNat, BitVec.toNat_ofNat]
  simp
  omega

/-- The effective address of LDH as a sum (spec/30_encoding.md R86). -/
theorem highPage_eq (n : Byte) : highPage n = 0xFF00 + n.zeroExtend 16 := by
  have hn := n.isLt
  apply BitVec.eq_of_toNat_eq
  rw [toNat_highPage, BitVec.toNat_add]
  simp
  omega

/-- Z is bit 7 of AF too (spec/10_state.md R27, D5). -/
theorem flagZ_eq (s : State) : s.flagZ = s.af.getLsbD 7 := by
  simp [State.flagZ, State.f, loByte]

/-! ### Writing one view -/

/-- A is the high byte of AF, as R23 writes it. -/
theorem setReg8_a_eq (s : State) (v : Byte) : s.setReg8 .a v = { s with af := (v.zeroExtend 16 <<< 8) ||| (s.af &&& 0x00FF) } := by
  rw [← mkWord_loByte]
  rfl

/-- F is the low byte of AF, as R23 writes it. -/
theorem setReg8_f_eq (s : State) (v : Byte) : s.setReg8 .f v = { s with af := (s.af &&& 0xFF00) ||| v.zeroExtend 16 } := by
  rw [← mkWord_hiByte]
  rfl

/-- The state that LD r,r' leaves, but for the register pairs (spec/43_loads.md R120). -/
theorem loadReg_frame (dst src : Reg8) (s : State) :
    loadReg dst src s = { s with
      af := (loadReg dst src s).af, bc := (loadReg dst src s).bc, de := (loadReg dst src s).de, hl := (loadReg dst src s).hl,
      pc := s.pc + 1 } := by
  cases dst <;> rfl

/-- XOR writes AF and `pc` alone (spec/44_alu.md R124). -/
theorem xorReg_frame (r : Reg8) (s : State) : xorReg r s = { s with af := (xorReg r s).af, pc := s.pc + 1 } := rfl

/-- F after XOR in numbers (spec/44_alu.md R124). -/
theorem xorFlags_xor (a n : Byte) : xorFlags (a ^^^ n) = if a = n then 0x80 else 0x00 := by
  by_cases h : a = n
  · simp [h, xorFlags, flags]
  · have hne : a ^^^ n ≠ 0 := fun hx => h (BitVec.xor_eq_zero_iff.mp hx)
    simp [h, xorFlags, flags]

/-- F after CP in numbers: equal, greater or less, unsigned (spec/44_alu.md R126). -/
theorem cpFlags_eq (a n : Byte) :
    cpFlags a n = if a.toNat = n.toNat then 0xC0 else if n.toNat < a.toNat then 0x60 else 0x50 := by
  rcases Nat.lt_trichotomy a.toNat n.toNat with h | h | h
  · have hne : a ≠ n := fun e => by simp [e] at h
    simp [cpFlags, flags, hne, h, h.ne, h.not_gt]
  · have he : a = n := BitVec.eq_of_toNat_eq h
    simp [cpFlags, flags, he]
  · have hne : a ≠ n := fun e => by simp [e] at h
    simp [cpFlags, flags, hne, h, h.ne', h.not_gt]

/-! ### The push -/

/-- The push as its two byte writes, the low byte first (spec/20_memory.md R70, D31). -/
theorem push16_eq (s : State) (w : Word) :
    s.push16 w = (({ s with sp := s.sp - 2 } : State).write8 (s.sp - 2) (loByte w)).write8 (s.sp - 1) (hiByte w) := by
  have hsp : s.sp - 2 + 1 = s.sp - 1 := by bv_omega
  rw [← hsp]
  rfl

@[simp] theorem read16_setPc (s : State) (t a : Word) : (s.setPc t).read16 a = s.read16 a := by simp [read16_eq]

/-- A word pushed on a stack in storage reads back at the new `sp`. -/
theorem read16_push16 {s : State} (w : Word) (hw : Memory.wf s.mem = true) (h2 : InStorage (s.sp - 2)) (h1 : InStorage (s.sp - 1)) :
    (s.push16 w).read16 (s.sp - 2) = w := by
  have hsp : s.sp - 2 + 1 = s.sp - 1 := by bv_omega
  exact read16_write16 (s := { s with sp := s.sp - 2 }) w hw h2 (hsp.symm ▸ h1)

/-! ### Fetching -/

/-- The fetch of an instruction with one operand byte reads it at `pc +16 1` and leaves the state (spec/40_dispatch.md R101). -/
theorem fetchInstr_of_formOf_opN {s : State} {build : Byte → Instr} (h : formOf (s.read8 s.pc) = .opN build) :
    s.fetchInstr = (build (s.read8 (s.pc + 1)), s) :=
  Prod.ext (by rw [fetchInstr_fst, h, Form.build]) (fetchInstr_snd s)

/-- The fetch of an instruction with an operand word reads it at `pc +16 1`, low byte first, and leaves the state. -/
theorem fetchInstr_of_formOf_opNN {s : State} {build : Word → Instr} (h : formOf (s.read8 s.pc) = .opNN build) :
    s.fetchInstr = (build (mkWord (s.read8 (s.pc + 2)) (s.read8 (s.pc + 1))), s) := by
  have h2 : s.pc + 1 + 1 = s.pc + 2 := by bv_omega
  exact Prod.ext (by rw [fetchInstr_fst, h, Form.build, h2]) (fetchInstr_snd s)

/-! ### The statements -/

/-- Settles O16: the handler is `advance 1`. -/
theorem nopAdvancesPc : Obligations.NopAdvancesPc := fun _ => rfl

/-- Settles O17: the byte's entry reads one operand, and the target is the sum in integers. -/
theorem relativeJump_holds : Obligations.RelativeJump := by
  refine ⟨fun _ _ => rfl, fun s h => fetchInstr_of_formOf_opN (by rw [h]; rfl), fun e s => ?_⟩
  rw [← jrTarget_eq]
  rfl

/-- Settles O18: both handlers are the relative jump, taken by bit 7 of F. -/
theorem conditionalJumps : Obligations.ConditionalJumps := by
  intro e s
  rw [← jrTarget_eq, ← flagZ_eq]
  simp only [exec, execJrNz, execJrZ, relativeJump_eq]
  cases s.flagZ <;> exact ⟨rfl, rfl⟩

/-- Settles O19: the byte's entry reads an operand word, and the handler puts it in `pc`. -/
theorem absoluteJump : Obligations.AbsoluteJump := by
  refine ⟨fun lo hi rest => ?_, fun s h => ?_, fun _ _ => rfl⟩
  · rw [← mkWord_eq_ofNat]
    rfl
  · rw [← mkWord_eq_ofNat]
    exact fetchInstr_of_formOf_opNN (by rw [h]; rfl)

/-- Settles O20: the push is its two byte writes, and what is pushed on storage reads back. -/
theorem callPushesTheReturnAddress : Obligations.CallPushesTheReturnAddress := by
  refine ⟨fun nn s => ?_, fun nn s hw h2 h1 => ⟨(s.push16 (s.pc + 3)).setPc nn, rfl, ?_, push16_sp s _, rfl⟩⟩
  · simp only [exec, execCall, push16_eq]
    rfl
  · rw [read16_setPc, setPc_sp, push16_sp]
    exact read16_push16 (s.pc + 3) hw h2 h1

/-- Settles O21: the immediate is the new high byte of AF. -/
theorem loadImmediate : Obligations.LoadImmediate := by
  intro n s
  simp only [exec, execLdAN, setReg8_a_eq]
  rfl

/-- Settles O22: every one of the 49 handlers is `loadReg` of its registers. -/
theorem loadRegister : Obligations.LoadRegister :=
  fun _ dst r s h => ⟨_, exec_of_loadRegs h s, loadReg_dst dst r s, fun _ hq => loadReg_reg8_ne hq r s, loadReg_frame dst r s⟩

/-- Settles O23: the high page but for the joypad's register is storage and IE. -/
theorem highPageStore : Obligations.HighPageStore := by
  have whole (n : Byte) (s : State) : exec (.ldhNA n) s =
      .next { s.write8 (0xFF00 + n.zeroExtend 16) (s.af.extractLsb 15 8) with pc := s.pc + 2 } := by
    simp only [exec, execLdhNA, highPage_eq, State.advance, write8_pc]
    rfl
  refine ⟨whole, fun n s hw hn => ⟨_, whole n s, ?_⟩, fun s => ?_, fun s => ?_⟩
  · show (s.write8 _ (hiByte s.af)).read8 _ = hiByte s.af
    rw [← highPage_eq]
    have hlt := n.isLt
    have hpos : n.toNat ≠ 0 := fun h => hn (BitVec.eq_of_toNat_eq h)
    have haddr := toNat_highPage n
    rcases Nat.lt_or_ge n.toNat 0xFF with h | h
    · exact read8_write8_of_inStorage _ hw (.inr (by omega))
    · have hie : regionOf (highPage n) = .ie := regionOf_ie (by omega)
      rw [read8_of_regionOf_ie _ hie, write8_of_regionOf_ie _ _ hie]
  · rw [whole]
    exact congrArg (fun t : State => Host.Outcome.next { t with pc := s.pc + 2 }) (interruptEnableRegister s _).2
  · rw [whole]
    exact congrArg (fun t : State => Host.Outcome.next { t with pc := s.pc + 2 }) (joypadRegister s _).2

/-- Settles O24: the byte read is the new high byte of AF, and reading leaves the state. -/
theorem highPageLoad : Obligations.HighPageLoad := by
  intro n s
  simp only [exec, execLdhAN, noteRead_eq, setReg8_a_eq, highPage_eq]
  rfl

/-- Settles O25: the store is the byte write; where it meets the next opcode, the next fetch reads the byte just written. -/
theorem absoluteStore : Obligations.AbsoluteStore := by
  have whole (nn : Word) (s : State) : exec (.ldNnA nn) s =
      .next { s.write8 nn (s.af.extractLsb 15 8) with pc := s.pc + 3 } := by
    simp only [exec, execLdNnA, State.advance, write8_pc]
    rfl
  refine ⟨whole, fun nn s hw h => ⟨_, whole nn s, ?_, ?_⟩⟩
  · exact read8_write8_of_inStorage _ hw h
  · rintro rfl
    exact read8_write8_of_inStorage _ hw h

/-- Settles O26: every one of the seven handlers is `xorReg` of its register. -/
theorem exclusiveOr : Obligations.ExclusiveOr := by
  intro i r s h
  refine ⟨_, exec_of_xorReg h s, xorReg_a r s, ?_, xorReg_frame r s⟩
  rw [xorReg_f, xorFlags_xor]

/-- Settles O27: both bytes of AF are constants. -/
theorem exclusiveOrOfAccumulator : Obligations.ExclusiveOrOfAccumulator := by
  intro s
  have haf : mkWord (hiByte (mkWord 0x00 (loByte s.af))) (flags true false false false) = 0x0080 := by
    rw [hiByte_mkWord]
    decide
  exact congrArg (fun w => Host.Outcome.next { s with af := w, pc := s.pc + 1 }) haf

/-- Settles O28: F is the compare's byte under the same A. -/
theorem compareImmediate : Obligations.CompareImmediate := by
  intro n s
  simp only [exec, execCp, setReg8_f_eq, cpFlags_eq]
  refine congrArg (fun w => Host.Outcome.next { s with af := (s.af &&& 0xFF00) ||| w, pc := s.pc + 2 }) ?_
  rw [apply_ite (BitVec.zeroExtend 16), apply_ite (BitVec.zeroExtend 16)]
  rfl

/-- Settles O29: both handlers arm the toggle and advance. -/
theorem diAndEiArmTheToggle : Obligations.DiAndEiArmTheToggle := fun _ => ⟨rfl, rfl⟩

/-- Settles O30: both handlers raise the fault at `pc`. -/
theorem undefinedOpcodesRaiseTheFault : Obligations.UndefinedOpcodesRaiseTheFault := fun _ _ => ⟨rfl, rfl⟩

end Sys2Proof.Machine
end

section
/-! SUPPORT. All that a handler can do, by the shared operation that it is (spec/40_dispatch.md R105). -/

namespace Sys2Proof.Machine

/-- What the handler of an instruction does to a state, by its operation: a load or an XOR of registers, an assignment of `pc` alone,
a load into A, the call's push, a store, the toggle, the compare, or the fault. -/
inductive HandlerEffect (s : State) : Instr → State → Prop
  | load {i : Instr} {dst src : Reg8} (h : i.loadRegs = some (dst, src)) : HandlerEffect s i (loadReg dst src s)
  | xor {i : Instr} {r : Reg8} (h : i.xorReg = some r) : HandlerEffect s i (xorReg r s)
  | goto {i : Instr} (target : Word) : HandlerEffect s i (s.setPc target)
  | loadA {i : Instr} (v : Byte) (h : (∃ n, i = .ldAN n) ∨ ∃ n, i = .ldhAN n) : HandlerEffect s i ((s.setReg8 .a v).advance 2)
  | call (nn : Word) : HandlerEffect s (.call nn) ((s.push16 (s.pc + 3)).setPc nn)
  | store {i : Instr} (a : Word) (v : Byte) (n : Word) (h : storesMemory i = true) : HandlerEffect s i ((s.write8 a v).advance n)
  | toggle {i : Instr} (h : i = .di ∨ i = .ei) : HandlerEffect s i (s.armToggle.advance 1)
  | compare (n : Byte) : HandlerEffect s (.cp n) ((s.setReg8 .f (cpFlags (s.reg8 .a) n)).advance 2)
  | fault {i : Instr} (table : Table) (key : Byte) (h : (∃ b, i = .undefinedOpcode b) ∨ ∃ b, i = .prefixCb b) :
      HandlerEffect s i (s.raiseUndefinedOpcode table key)

/-- Every handler answers a next state, and it is one of the operations of `HandlerEffect`. -/
theorem exec_effect (i : Instr) (s : State) : ∃ t, exec i s = .next t ∧ HandlerEffect s i t := by
  cases i using Instr.casesByFamily with
  | load i dst src hl => exact ⟨_, exec_of_loadRegs hl s, .load hl⟩
  | xor i r hx => exact ⟨_, exec_of_xorReg hx s, .xor hx⟩
  | nop => exact ⟨_, rfl, .goto _⟩
  | jr e => exact ⟨_, rfl, relativeJump_eq .. ▸ .goto _⟩
  | jrNz e => exact ⟨_, rfl, relativeJump_eq .. ▸ .goto _⟩
  | jrZ e => exact ⟨_, rfl, relativeJump_eq .. ▸ .goto _⟩
  | ldAN n => exact ⟨_, rfl, .loadA n (.inl ⟨n, rfl⟩)⟩
  | jp nn => exact ⟨_, rfl, .goto nn⟩
  | call nn => exact ⟨_, rfl, .call nn⟩
  | ldhNA n => exact ⟨_, rfl, .store _ _ _ rfl⟩
  | ldNnA nn => exact ⟨_, rfl, .store _ _ _ rfl⟩
  | ldhAN n => exact ⟨_, rfl, by rw [noteRead_eq]; exact .loadA _ (.inr ⟨n, rfl⟩)⟩
  | di => exact ⟨_, rfl, .toggle (.inl rfl)⟩
  | ei => exact ⟨_, rfl, .toggle (.inr rfl)⟩
  | cp n => exact ⟨_, rfl, .compare n⟩
  | prefixCb op2 => exact ⟨_, rfl, .fault _ _ (.inr ⟨op2, rfl⟩)⟩
  | undefinedOpcode op => exact ⟨_, rfl, .fault _ _ (.inl ⟨op, rfl⟩)⟩

/-- The inversion that proofs about all handlers follow. -/
theorem exec_next_effect {i : Instr} {s t : State} (h : exec i s = .next t) : HandlerEffect s i t := by
  obtain ⟨u, hu, heff⟩ := exec_effect i s
  cases hu.symm.trans h
  exact heff

end Sys2Proof.Machine
end

section
/-! PROOF. What the handlers leave unchanged, over all instructions (spec/10_state.md R25, R29, R32; 20_memory.md R74). -/

namespace Sys2Proof.Machine

/-- The instruction of one LD r,r' or XOR is one byte (spec/30_encoding.md R85). -/
theorem length_encode_of_loadRegs {i : Instr} {p : Reg8 × Reg8} (h : i.loadRegs = some p) : (encode i).length = 1 := by
  cases i <;> cases h <;> rfl

theorem length_encode_of_xorReg {i : Instr} {r : Reg8} (h : i.xorReg = some r) : (encode i).length = 1 := by
  cases i <;> cases h <;> rfl

/-- Settles O31: each store is one or two byte writes, and a byte write reaches only what `storeReaches` says. -/
theorem storesReachNoOtherByte : Obligations.StoresReachNoOtherByte := by
  refine ⟨fun n s => ⟨_, rfl, fun b h => ?_⟩, fun nn s => ⟨_, rfl, fun b h => ?_⟩, fun nn s => ⟨_, rfl, fun b h h' => ?_⟩⟩
  · rw [read8_advance, read8_write8_of_not_reached s _ h]
  · rw [read8_advance, read8_write8_of_not_reached s _ h]
  · rw [read8_setPc, push16_eq, read8_write8_of_not_reached _ _ h', read8_write8_of_not_reached _ _ h]
    rfl

/-- Settles O32: no other operation touches a field that a read depends on. -/
theorem otherInstructionsStoreNothing : Obligations.OtherInstructionsStoreNothing := by
  intro i s t hi h
  cases exec_next_effect h with
  | load _ => simp
  | xor _ => simp
  | goto target => simp
  | loadA v _ => simp
  | call nn => cases hi
  | store a v n hs => exact absurd hs (by simp [hi])
  | toggle _ => simp
  | compare n => simp
  | fault table key _ => simp

/-- Settles O33: it is the case `exec_leaves_f` of the writers of F. -/
theorem onlyXorAndCpWriteFlags : Obligations.OnlyXorAndCpWriteFlags := fun _ _ _ hi h => exec_leaves_f hi h

/-- Settles O34: only the call pushes, and only the loads, XOR and the compare set a view. -/
theorem registersWrittenOnlyByTheirWriters : Obligations.RegistersWrittenOnlyByTheirWriters := by
  intro i s t h
  cases exec_next_effect h with
  | load hl =>
    rename_i dst src
    have writer {q : Reg8} (hne : (loadReg dst src s).reg8 q ≠ s.reg8 q) : ∃ src, i.loadRegs = some (q, src) := by
      obtain rfl : q = dst := by_contra fun hq => hne (loadReg_reg8_ne hq src s)
      exact ⟨src, hl⟩
    exact ⟨fun hne => absurd (loadReg_sp ..) hne, fun _ _ _ => writer, fun hne => .inl (writer hne)⟩
  | xor hx =>
    exact ⟨fun hne => absurd (xorReg_sp ..) hne, fun _ ha hf hne => absurd (xorReg_reg8_ne ha hf ..) hne,
      fun _ => .inr (.inl ⟨_, hx⟩)⟩
  | goto target => simp
  | loadA v hw =>
    exact ⟨by simp, fun r ha _ hne => absurd (by simp [reg8_setReg8_ne s ha]) hne, fun _ => .inr (.inr hw)⟩
  | call nn => exact ⟨fun _ => ⟨nn, rfl⟩, by simp, by simp⟩
  | store a v n _ => simp
  | toggle _ => simp
  | compare n =>
    exact ⟨by simp, fun r _ hf hne => absurd (by simp [reg8_setReg8_ne s hf]) hne, by simp [reg8_setReg8_ne]⟩
  | fault table key _ => simp

/-- Settles O35: no operation touches these fields, but the toggle its latch and the fault its record. -/
theorem handlersLeaveControlState : Obligations.HandlersLeaveControlState := by
  intro i s t h
  cases exec_next_effect h with
  | load _ => simp
  | xor _ => simp
  | goto target => simp
  | loadA v _ => simp
  | call nn => simp
  | store a v n _ => simp
  | toggle ht => simp [ht]
  | compare n => simp
  | fault table key hf => simp [hf]

/-- Settles O36: each sequential handler advances by the number of bytes it is spelled with. -/
theorem sequentialInstructionsAdvanceByTheirLength : Obligations.SequentialInstructionsAdvanceByTheirLength := by
  intro i s t hi h
  cases i using Instr.casesByFamily with
  | load i dst src hl =>
    cases (exec_of_loadRegs hl s).symm.trans h
    rw [loadReg_pc, length_encode_of_loadRegs hl]
    rfl
  | xor i r hx =>
    cases (exec_of_xorReg hx s).symm.trans h
    rw [xorReg_pc, length_encode_of_xorReg hx]
    rfl
  | nop => cases h; rfl
  | ldAN n => cases h; rfl
  | ldhNA n => cases h; exact congrArg (· + 2) (write8_pc ..)
  | ldNnA nn => cases h; exact congrArg (· + 3) (write8_pc ..)
  | ldhAN n => cases h; simp [encode]
  | di => cases h; rfl
  | ei => cases h; rfl
  | cp n => cases h; rfl
  | jr e => cases hi
  | jrNz e => cases hi
  | jrZ e => cases hi
  | jp nn => cases hi
  | call nn => cases hi
  | prefixCb op2 => cases hi
  | undefinedOpcode op => cases hi

end Sys2Proof.Machine
end

section
/-! PROOF. The poll and the service (spec/60_exceptions.md R136 to R148): which source, and what its service writes. -/

namespace Sys2Proof.Machine

/-! ### The source -/

theorem Source.index_lt (src : Source) : src.index < 5 := by
  cases src <;> decide

theorem Source.exists_index {k : Nat} (h : k < 5) : ∃ src : Source, src.index = k := by
  match k, h with
  | 0, _ => exact ⟨.vblank, rfl⟩
  | 1, _ => exact ⟨.lcdStat, rfl⟩
  | 2, _ => exact ⟨.timer, rfl⟩
  | 3, _ => exact ⟨.serial, rfl⟩
  | 4, _ => exact ⟨.joypad, rfl⟩

/-- A source's mask is its one bit (R136). -/
theorem Source.getLsbD_mask (src : Source) : ∀ j < 8, src.mask.getLsbD j = decide (j = src.index) := by
  cases src <;> decide

/-- The mask of the five sources, bit by bit (D17). -/
theorem getLsbD_sourceMask : ∀ j < 5, (0x1F : Byte).getLsbD j = true := by decide

/-- The pending and enabled sources are the five low bits of `IE & IF` (R140). -/
theorem getLsbD_pending (s : State) {j : Nat} (h : j < 5) : s.pending.getLsbD j = (s.ie &&& s.ifReg).getLsbD j := by
  rw [State.pending, BitVec.getLsbD_and, getLsbD_sourceMask j h, Bool.and_true]

/-- The source selected is pending (R141). -/
theorem getLsbD_of_lowestSource {pend : Byte} {src : Source} (h : lowestSource pend = some src) : pend.getLsbD src.index = true := by
  unfold lowestSource at h
  (repeat' split at h) <;> cases h <;> assumption

/-- The source of the lowest set bit is selected (R141). -/
theorem lowestSource_eq_some {pend : Byte} {src : Source} (h : pend.getLsbD src.index = true)
    (hlow : ∀ j < src.index, pend.getLsbD j = false) : lowestSource pend = some src := by
  unfold lowestSource
  cases src <;> simp only [Source.index] at h hlow
  case vblank => rw [if_pos h]
  case lcdStat => simp only [hlow 0 (by decide), h, Bool.false_eq_true, if_false, if_true]
  case timer => simp only [hlow 0 (by decide), hlow 1 (by decide), h, Bool.false_eq_true, if_false, if_true]
  case serial =>
    simp only [hlow 0 (by decide), hlow 1 (by decide), hlow 2 (by decide), h, Bool.false_eq_true, if_false, if_true]
  case joypad =>
    simp only [hlow 0 (by decide), hlow 1 (by decide), hlow 2 (by decide), hlow 3 (by decide), h, Bool.false_eq_true, if_false,
      if_true]

/-- Where a source is pending and enabled, one is selected (R140). -/
theorem exists_lowestSource {v : Byte} (hv : v &&& 0x1F ≠ 0) : ∃ src, lowestSource (v &&& 0x1F) = some src := by
  have h : ∀ v : Byte, v &&& 0x1F ≠ 0 → (lowestSource (v &&& 0x1F)).isSome = true := by decide +kernel
  exact Option.isSome_iff_exists.mp (h v hv)

/-! ### The service -/

/-- The poll of a machine with `ime` set services the lowest pending source (R140, R141). -/
theorem pollAndDispatch_of_source {s : State} {src : Source} (hime : s.ime = true) (h : lowestSource s.pending = some src) :
    s.pollAndDispatch = s.serviceInterrupt src := by
  simp only [State.pollAndDispatch, hime, if_true, h]

/-- A service disarms the next poll (R147). -/
theorem pollAndDispatch_serviceInterrupt (s : State) (src : Source) :
    (s.serviceInterrupt src).pollAndDispatch = s.serviceInterrupt src :=
  pollAndDispatch_quiet (.inl (serviceInterrupt_ime s src))

/-- The service in one expression: the IF bit, `ime`, the push of `pc` and the vector (R142). -/
theorem serviceInterrupt_eq (s : State) (src : Source) :
    s.serviceInterrupt src = { ({ s.setIf (s.ifReg &&& ~~~src.mask) with ime := false } : State).push16 s.pc with
      pc := src.vector, cycles := s.cycles + 20 } := by
  unfold State.serviceInterrupt
  simp only [push16_cycles, setIf_cycles, setIf_pc]

/-- A service clears its own bit of IF and no other, where the push does not write IF (R142). -/
theorem getLsbD_ifReg_serviceInterrupt {s : State} (src : Source) (hw : Memory.wf s.mem = true) (h2 : s.sp - 2 ≠ 0xFF0F)
    (h1 : s.sp - 1 ≠ 0xFF0F) {j : Nat} (hj : j < 8) :
    (s.serviceInterrupt src).ifReg.getLsbD j = (s.ifReg.getLsbD j && decide (j ≠ src.index)) := by
  rw [ifReg_serviceInterrupt src hw h2 h1, BitVec.getLsbD_and, BitVec.getLsbD_not, src.getLsbD_mask j hj]
  simp [hj]

/-- A push on storage leaves IE. -/
theorem push16_ie {s : State} (w : Word) (h2 : InStorage (s.sp - 2)) (h1 : InStorage (s.sp - 1)) : (s.push16 w).ie = s.ie := by
  rw [push16_eq, write8_plain _ _ (isPlain_of_inStorage h1), write8_plain _ _ (isPlain_of_inStorage h2)]
  rfl

/-- Where the stack is storage, the word at the new `sp` is the `pc` that was interrupted (R142). -/
theorem read16_serviceInterrupt {s : State} (src : Source) (hw : Memory.wf s.mem = true) (h2 : InStorage (s.sp - 2))
    (h1 : InStorage (s.sp - 1)) : (s.serviceInterrupt src).read16 (s.sp - 2) = s.pc := by
  have hpushed := read16_push16 (s := { s.setIf (s.ifReg &&& ~~~src.mask) with ime := false }) s.pc (Memory.wf_write _ _ hw) h2 h1
  rw [read16_eq] at hpushed ⊢
  rw [serviceInterrupt_eq]
  exact hpushed

/-- Where the stack is storage, a service leaves IE. -/
theorem serviceInterrupt_ie {s : State} (src : Source) (h2 : InStorage (s.sp - 2)) (h1 : InStorage (s.sp - 1)) :
    (s.serviceInterrupt src).ie = s.ie := by
  rw [serviceInterrupt_eq]
  exact push16_ie (s := { s.setIf (s.ifReg &&& ~~~src.mask) with ime := false }) s.pc h2 h1

/-- The premises of R141 on the bits of `IE & IF` select the source of bit `k`. -/
theorem exists_pollAndDispatch_eq_service {s : State} {k : Nat} (hk : k < 5) (hime : s.ime = true)
    (hset : (s.ie &&& s.ifReg).getLsbD k = true) (hlow : ∀ j, j < k → (s.ie &&& s.ifReg).getLsbD j = false) :
    ∃ src : Source, src.index = k ∧ s.pollAndDispatch = s.serviceInterrupt src := by
  obtain ⟨src, rfl⟩ := Source.exists_index hk
  refine ⟨src, rfl, pollAndDispatch_of_source hime (lowestSource_eq_some ?_ fun j hj => ?_)⟩
  · rw [getLsbD_pending s hk, hset]
  · rw [getLsbD_pending s (hj.trans hk), hlow j hj]

/-! ### The statements -/

/-- A bus read of 0xFF0F gives IF (R64). -/
theorem read8_if (s : State) : s.read8 0xFF0F = s.ifReg :=
  read8_plain s (by decide)

/-- Settles O37: the poll is quiet, or a source is selected and serviced. -/
theorem pollServicesExactlyWhenEnabledAndPending : Obligations.PollServicesExactlyWhenEnabledAndPending := by
  intro s
  rw [read8_if]
  refine ⟨fun h => pollAndDispatch_quiet h, fun hime hpend => ?_⟩
  obtain ⟨src, hsrc⟩ := exists_lowestSource hpend
  rw [pollAndDispatch_of_source hime hsrc]
  exact ⟨serviceInterrupt_ime s src, ⟨src.index, src.index_lt, rfl⟩, serviceInterrupt_sp s src, serviceInterrupt_cycles s src⟩

/-- Settles O38: the lowest bit selects its source, whose service is the push of `pc` as two byte writes. -/
theorem lowestPendingSourceIsServiced : Obligations.LowestPendingSourceIsServiced := by
  intro s k hk hime hset hlow
  obtain ⟨src, rfl, hpoll⟩ := exists_pollAndDispatch_eq_service hk hime hset hlow
  rw [hpoll, serviceInterrupt_eq, push16_eq]
  rfl

/-- Settles O39: the service of the lowest source, with a stack in storage that does not reach IF. -/
theorem serviceSavesPcAndClearsOneBit : Obligations.ServiceSavesPcAndClearsOneBit := by
  intro s k hw hk hime hset hlow h2 h1 hif2 hif1
  obtain ⟨src, rfl, hpoll⟩ := exists_pollAndDispatch_eq_service hk hime hset hlow
  simp only [hpoll, serviceInterrupt_sp]
  exact ⟨read16_serviceInterrupt src hw h2 h1, fun j hj => getLsbD_ifReg_serviceInterrupt src hw hif2 hif1 hj,
    serviceInterrupt_af s src, serviceInterrupt_bc s src, serviceInterrupt_de s src, serviceInterrupt_hl s src,
    serviceInterrupt_ie src h2 h1, serviceInterrupt_toggleArmed s src, serviceInterrupt_status s src⟩

/-- Settles O40: the poll changes nothing or is one service, after which `ime` is clear. -/
theorem pollServicesAtMostOne : Obligations.PollServicesAtMostOne := by
  intro s
  rcases pollAndDispatch_cases s with h | ⟨src, hime, hsrc, h⟩
  · simp only [h]
    exact ⟨.inl trivial, trivial⟩
  · have hbit := getLsbD_of_lowestSource hsrc
    rw [getLsbD_pending s src.index_lt] at hbit
    simp only [h]
    exact ⟨.inr ⟨src.index, src.index_lt, hime, hbit, serviceInterrupt_sp s src, serviceInterrupt_cycles s src,
      serviceInterrupt_ime s src, rfl, fun hw h2 h1 j hj => getLsbD_ifReg_serviceInterrupt src hw h2 h1 hj⟩,
      pollAndDispatch_serviceInterrupt s src⟩

end Sys2Proof.Machine
end

section
/-! SUPPORT. Stages 6 and 7, and the state in which a step fetches (spec/40_dispatch.md R98 to R108). -/

namespace Sys2Proof.Machine

/-- Stages 6 and 7 write `cycles`, `ime` and the toggle latch alone (R106, R108). -/
theorem finishStep_frame (i : Instr) (s : State) :
    s.finishStep i = { s with
      ime := (s.finishStep i).ime, toggleArmed := (s.finishStep i).toggleArmed, cycles := (s.finishStep i).cycles } := by
  unfold State.finishStep State.applyToggle
  split
  · split <;> rfl
  · rfl

@[simp] theorem finishStep_mem (i : Instr) (s : State) : (s.finishStep i).mem = s.mem := by rw [finishStep_frame]
@[simp] theorem finishStep_romBank (i : Instr) (s : State) : (s.finishStep i).romBank = s.romBank := by rw [finishStep_frame]
@[simp] theorem finishStep_joyCol (i : Instr) (s : State) : (s.finishStep i).joyCol = s.joyCol := by rw [finishStep_frame]
@[simp] theorem finishStep_joyRow (i : Instr) (s : State) : (s.finishStep i).joyRow = s.joyRow := by rw [finishStep_frame]
@[simp] theorem finishStep_rom (i : Instr) (s : State) : (s.finishStep i).rom = s.rom := by rw [finishStep_frame]
@[simp] theorem finishStep_romLen (i : Instr) (s : State) : (s.finishStep i).romLen = s.romLen := by rw [finishStep_frame]
@[simp] theorem finishStep_env (i : Instr) (s : State) : (s.finishStep i).env = s.env := by rw [finishStep_frame]

/-- With no toggle armed, stages 6 and 7 leave the latch and `ime` (R108). -/
theorem finishStep_of_toggle_clear (i : Instr) {s : State} (h : s.toggleArmed = false) :
    (s.finishStep i).toggleArmed = false ∧ (s.finishStep i).ime = s.ime := by
  unfold State.finishStep
  split
  · simp [h]
  · exact ⟨h, rfl⟩

@[simp] theorem atFetch_rom (s : State) : s.atFetch.rom = s.rom := by simp [State.atFetch]
@[simp] theorem atFetch_romLen (s : State) : s.atFetch.romLen = s.romLen := by simp [State.atFetch]
@[simp] theorem atFetch_env (s : State) : s.atFetch.env = s.env.tail := by simp [State.atFetch]
@[simp] theorem atFetch_toggleArmed (s : State) : s.atFetch.toggleArmed = s.toggleArmed := by simp [State.atFetch]

/-- With no turn coming and a quiet poll, a step fetches in the state it begins with. -/
theorem atFetch_of_quiet {s : State} (henv : s.env = []) (hq : s.quiet) : s.atFetch = s := by
  rw [State.atFetch, envTurn_nil henv, pollAndDispatch_quiet hq]

/-- The fetch of an instruction without operands leaves the state (R101). -/
theorem fetchInstr_of_formOf_op {s : State} {i : Instr} (h : formOf (s.read8 s.pc) = .op i) : s.fetchInstr = (i, s) :=
  Prod.ext (by rw [fetchInstr_fst, h, Form.build]) (fetchInstr_snd s)

/-- DI and EI have one byte each (spec/45_interrupt_control.md R128, R129). -/
theorem formOf_toggle {op : Byte} (h : op = 0xF3 ∨ op = 0xFB) :
    ∃ i, formOf op = .op i ∧ (i = .di ∨ i = .ei) ∧ i.entry = (.primary, op) := by
  rcases h with rfl | rfl
  · exact ⟨.di, rfl, .inl rfl, rfl⟩
  · exact ⟨.ei, rfl, .inr rfl, rfl⟩

/-- DI and EI have the same handler (R128, R129). -/
theorem exec_toggle {i : Instr} (h : i = .di ∨ i = .ei) (s : State) : exec i s = .next (s.armToggle.advance 1) := by
  rcases h with rfl | rfl <;> rfl

/-- A step whose handler raises the fault ends with the record: stages 6 and 7 do not run (R104). -/
theorem step_of_exec_fault {s : State} {i : Instr} {table : Table} {key : Byte} (hrun : s.status = .running)
    (hf : s.atFetch.fetchInstr = (i, s.atFetch)) (hexec : exec i s.atFetch = .next (s.atFetch.raiseUndefinedOpcode table key)) :
    step s = .next { s.atFetch with status := .faulted table key s.atFetch.pc } := by
  have hi : s.atFetch.fetchInstr.1 = i := congrArg Prod.fst hf
  rw [step_of_exec_next hrun (hi ▸ hexec), finishStep_faulted _ (raiseUndefinedOpcode_status ..)]
  rfl

end Sys2Proof.Machine
end

section
/-! PROOF. The step as a whole (spec/40_dispatch.md R98 to R110), with the deferred toggle (spec/60_exceptions.md R144 to R146). -/

namespace Sys2Proof.Machine

/-- Settles O41: the byte's handler arms the toggle, stage 6 adds its cost and stage 7 flips `ime`. -/
theorem toggleFlipsOnceAtTheEndOfItsStep : Obligations.ToggleFlipsOnceAtTheEndOfItsStep := by
  intro s hrun hop
  obtain ⟨i, hform, hi, hentry⟩ := formOf_toggle hop
  have hfetch : s.atFetch.fetchInstr.1 = i := congrArg Prod.fst (fetchInstr_of_formOf_op hform)
  have hu : (s.atFetch.armToggle.advance 1).status = .running := by simp [hrun]
  rw [step_of_exec_next hrun (hfetch.symm ▸ exec_toggle hi s.atFetch), hfetch, finishStep_running i hu, hentry]
  rfl

/-- Settles O42: two steps of O41, neither with a service, flip `ime` twice. -/
theorem twoTogglesCancel : Obligations.TwoTogglesCancel := by
  intro s hrun henv hpend hop hop'
  have hfetch := atFetch_of_quiet henv (.inr hpend)
  have hstep := toggleFlipsOnceAtTheEndOfItsStep s hrun (by rwa [State.fetchedOpcode, hfetch])
  rw [hfetch] at hstep
  generalize ht : ({ s with
    pc := s.pc + 1, ime := !s.ime, toggleArmed := false,
    cycles := s.cycles + Config.baseCost .primary s.fetchedOpcode } : State) = t at hstep
  have hfetch' : t.atFetch = t := by
    subst ht
    exact atFetch_of_quiet henv (.inr hpend)
  have hop'' : t.fetchedOpcode = 0xF3 ∨ t.fetchedOpcode = 0xFB := by
    rw [State.fetchedOpcode, hfetch']
    subst ht
    exact hop'
  have hstep' := toggleFlipsOnceAtTheEndOfItsStep t (by subst ht; exact hrun) hop''
  rw [hfetch'] at hstep'
  refine ⟨t, _, hstep, hstep', ?_⟩
  subst ht
  have hpc : s.pc + 1 + 1 = s.pc + 2 := by bv_omega
  exact ⟨rfl, Bool.not_not s.ime, hpc, rfl⟩

/-- Settles O43: with a quiet poll the handler sees the old `ime` and an empty latch, and only DI and EI fill it. -/
theorem masterEnableChangesOnlyByServiceOrToggle : Obligations.MasterEnableChangesOnlyByServiceOrToggle := by
  intro s t hclear h hne
  obtain ⟨u, hu, rfl⟩ := step_next_inv h
  obtain ⟨himeU, -, -, -, -, -, -, -, htoggle, -⟩ := handlersLeaveControlState _ _ _ hu
  by_cases hserved : s.ime = true ∧ s.envTurn.pending ≠ 0
  · exact .inl hserved
  · right
    have hquiet : s.envTurn.quiet := by
      by_cases hime : s.ime = true
      · exact .inr (not_not.mp fun hp => hserved ⟨hime, hp⟩)
      · exact .inl (by rw [envTurn_ime, Bool.eq_false_of_not_eq_true hime])
    have hime : s.atFetch.ime = s.ime := by rw [State.atFetch, pollAndDispatch_quiet hquiet, envTurn_ime]
    have harmed : u.toggleArmed ≠ false := fun hu0 =>
      hne (by rw [(finishStep_of_toggle_clear _ hu0).2, himeU, hime])
    have hfirst : (encode s.atFetch.fetchInstr.1).headD 0 = s.fetchedOpcode := (fetchInstr_beginsWith s.atFetch).2
    rw [← hfirst]
    rcases htoggle (by rwa [atFetch_toggleArmed, hclear]) with e | e <;> rw [e]
    · exact .inl rfl
    · exact .inr rfl

/-- Settles O44: the fetch gives the instruction that the three bytes decode to, and its handler answers a next state. -/
theorem stepRunsTheDecodedInstruction : Obligations.StepRunsTheDecodedInstruction := by
  intro s i rest hrun hdec
  have hfetch : s.atFetch.fetchInstr.1 = i := fetchInstr_of_decode hdec
  obtain ⟨u, hu, -⟩ := exec_effect i s.atFetch
  rw [hu, step_of_exec_next hrun (hfetch.symm ▸ hu), hfetch]

/-- Settles O45: every handler answers a next state, so a step stops only at a recorded fault. -/
theorem runningMachineAlwaysSteps : Obligations.RunningMachineAlwaysSteps := by
  have steps (s : State) (h : s.status = .running) : ∃ t, step s = .next t := by
    obtain ⟨u, hu, -⟩ := exec_effect s.atFetch.fetchInstr.1 s.atFetch
    exact ⟨_, step_of_exec_next h hu⟩
  refine ⟨steps, fun s r h => ?_, fun s table key addr => ⟨fun h => ?_, step_faulted⟩⟩
  · rcases hs : s.status with _ | ⟨table, key, addr⟩
    · obtain ⟨t, ht⟩ := steps s hs
      cases ht.symm.trans h
    · cases (step_faulted hs).symm.trans h
  · rcases hs : s.status with _ | ⟨table', key', addr'⟩
    · obtain ⟨t, ht⟩ := steps s hs
      cases ht.symm.trans h
    · cases (step_faulted hs).symm.trans h
      rfl

/-- Settles O47: the byte's entry gives an instruction whose handler raises the fault in the polled state. -/
theorem faultingStepKeepsThePolledState : Obligations.FaultingStepKeepsThePolledState := by
  refine fun s hrun => ⟨fun hunbound => ?_, fun hcb => ?_⟩
  · have hw : WellFormed (.undefinedOpcode s.fetchedOpcode) := by simp [WellFormed, Instr.wellFormed, hunbound]
    exact step_of_exec_fault hrun (fetchInstr_of_formOf_op (formOf_unbound hw)) rfl
  · have hform : formOf s.fetchedOpcode = .opN .prefixCb := by rw [hcb]; rfl
    exact step_of_exec_fault hrun (fetchInstr_of_formOf_opN hform) rfl

end Sys2Proof.Machine
end

section
/-! SUPPORT. In a step only byte writes reach memory, the bank and the joypad's column: handlers, the service and the environment
change them by nothing else (spec/20_memory.md R51, R74). -/

namespace Sys2Proof.Machine

/-- A property of memory, the bank and the joypad's column that a byte write keeps. -/
structure WriteInvariant (P : State → Prop) : Prop where
  congr : ∀ {s t : State}, P s → t.mem = s.mem → t.romBank = s.romBank → t.joyCol = s.joyCol → P t
  write8 : ∀ {s : State} (a : Word) (v : Byte), P s → P (s.write8 a v)

/-- A byte of storage set directly is a byte written on the bus, for IF and for every byte the environment may write. -/
theorem store_eq_write8_of_envWritable (s : State) {a : Word} (v : Byte) (h : envWritable a = true) : s.store a v = s.write8 a v := by
  simp only [envWritable, Bool.and_eq_true, decide_eq_true_eq] at h
  exact (write8_plain s v (isPlain_of_inStorage (.inr ⟨h.1, by omega⟩))).symm

theorem setIf_eq_write8 (s : State) (v : Byte) : s.setIf v = s.write8 0xFF0F v :=
  store_eq_write8_of_envWritable s v (by decide)

namespace WriteInvariant

variable {P : State → Prop} (inv : WriteInvariant P)
include inv

theorem setIf {s : State} (v : Byte) (h : P s) : P (s.setIf v) := by
  rw [setIf_eq_write8]
  exact inv.write8 _ v h

theorem push16 {s : State} (w : Word) (h : P s) : P (s.push16 w) := by
  have hsp : P { s with sp := s.sp - 2 } := inv.congr h rfl rfl rfl
  rw [push16_eq]
  exact inv.write8 _ _ (inv.write8 _ _ hsp)

theorem pollAndDispatch {s : State} (h : P s) : P s.pollAndDispatch := by
  rcases pollAndDispatch_cases s with e | ⟨src, -, -, e⟩ <;> rw [e]
  · exact h
  · have hcleared : P { s.setIf (s.ifReg &&& ~~~src.mask) with ime := false } := inv.congr (inv.setIf _ h) rfl rfl rfl
    rw [serviceInterrupt_eq]
    exact inv.congr (inv.push16 s.pc hcleared) rfl rfl rfl

theorem joypadSignal {s : State} (key : Byte) (pressed : Bool) (h : P s) : P (s.joypadSignal key pressed) := by
  unfold State.joypadSignal
  split
  · cases pressed
    · exact inv.congr (inv.setIf _ h) rfl rfl rfl
    · exact inv.congr h rfl rfl rfl
  · exact h

theorem envAct {s : State} (act : EnvAction) (h : P s) : P (s.envAct act) := by
  cases act with
  | signalInterrupt src => exact inv.setIf _ h
  | joypadSignal key pressed => exact inv.joypadSignal key pressed h
  | writeIo a v =>
    show P (if envWritable a then s.store a v else s)
    split
    · next ha =>
      rw [store_eq_write8_of_envWritable s v ha]
      exact inv.write8 a v h
    · exact h
  | observe => exact h
  | setHaltStop => exact inv.congr h rfl rfl rfl

theorem envActs {s : State} (acts : List EnvAction) (h : P s) : P (s.envActs acts) := by
  induction acts generalizing s with
  | nil => exact h
  | cons act acts ih => exact ih (inv.envAct act h)

theorem envTurn {s : State} (h : P s) : P s.envTurn := by
  rcases henv : s.env with _ | ⟨acts, rest⟩
  · rwa [envTurn_nil henv]
  · rw [envTurn_cons henv]
    exact inv.congr (inv.envActs acts h) rfl rfl rfl

theorem exec {i : Instr} {s t : State} (h : P s) (ht : exec i s = .next t) : P t := by
  cases exec_next_effect ht with
  | load _ => exact inv.congr h (by simp) (by simp) (by simp)
  | xor _ => exact inv.congr h (by simp) (by simp) (by simp)
  | goto target => exact inv.congr h rfl rfl rfl
  | loadA v _ => exact inv.congr h rfl rfl rfl
  | call nn => exact inv.congr (inv.push16 _ h) rfl rfl rfl
  | store a v n _ => exact inv.congr (inv.write8 a v h) rfl rfl rfl
  | toggle _ => exact inv.congr h rfl rfl rfl
  | compare n => exact inv.congr h rfl rfl rfl
  | fault table key _ => exact inv.congr h rfl rfl rfl

/-- The step keeps every such property. -/
theorem step {s t : State} (h : P s) (ht : step s = .next t) : P t := by
  obtain ⟨u, hu, rfl⟩ := step_next_inv ht
  exact inv.congr (inv.exec (inv.pollAndDispatch (inv.envTurn h)) hu) (finishStep_mem ..) (finishStep_romBank ..)
    (finishStep_joyCol ..)

end WriteInvariant

end Sys2Proof.Machine
end

section
/-! PROOF. What every step keeps (spec/10_state.md R18, R28, R36, R39 to R42), and that reset has it. -/

namespace Sys2Proof.Machine

/-! ### Memory, the bank, the joypad's column -/

theorem writeInvariant_memOk : WriteInvariant fun s => memOk s.mem where
  congr h hm _ _ := by rwa [hm]
  write8 a v h := memOk_write8 a v h

theorem writeInvariant_joyColLow : WriteInvariant fun s => s.joyCol &&& 0x0F = 0 where
  congr h _ _ hc := by rwa [hc]
  write8 {s} a v h := by
    rcases write8_cases s a v with ⟨e, -⟩ | e | e | e | e <;> rw [e]
    case inr.inr.inr.inl => exact (BitVec.and_assoc v 0xF0 0x0F).trans (BitVec.and_zero (x := v))
    all_goals exact h

/-- The default `NewBank` gives a bank of 1..31 (spec/20_memory.md R55, D11). -/
theorem newBank_inRange (v : Byte) (b : Nat) : 1 ≤ newBank v b ∧ newBank v b ≤ 31 := by
  rw [newBank_eq]
  split <;> omega

theorem writeInvariant_bankInRange : WriteInvariant State.BankInRange where
  congr h _ hb _ := by rwa [State.BankInRange, hb]
  write8 {s} a v h := by
    rcases write8_cases s a v with ⟨e, -⟩ | e | e | e | e <;> rw [e]
    case inl => exact newBank_inRange v s.romBank
    all_goals exact h

/-! ### The joypad's row -/

theorem and_lowNibble_highNibble (v : Byte) : v &&& 0x0F &&& 0xF0 = 0 :=
  (BitVec.and_assoc v 0x0F 0xF0).trans (BitVec.and_zero (x := v))

/-- A key event leaves the row's high nibble clear (spec/60_exceptions.md R156, R157). -/
theorem joyRowHigh_envAct {s : State} (act : EnvAction) (h : s.joyRow &&& 0xF0 = 0) : (s.envAct act).joyRow &&& 0xF0 = 0 := by
  cases act with
  | joypadSignal key pressed =>
    rw [State.envAct, State.joypadSignal]
    split
    · cases pressed <;> exact and_lowNibble_highNibble _
    · exact h
  | writeIo a v =>
    rw [State.envAct]
    split <;> exact h
  | signalInterrupt src => exact h
  | observe => exact h
  | setHaltStop => exact h

theorem joyRowHigh_envActs {s : State} (acts : List EnvAction) (h : s.joyRow &&& 0xF0 = 0) : (s.envActs acts).joyRow &&& 0xF0 = 0 := by
  induction acts generalizing s with
  | nil => exact h
  | cons act acts ih => exact ih (joyRowHigh_envAct act h)

/-- A step keeps the row's high nibble clear: only its environment's turn writes the row. -/
theorem step_keeps_joyRowHigh {s t : State} (h : s.joyRow &&& 0xF0 = 0) (ht : step s = .next t) : t.joyRow &&& 0xF0 = 0 := by
  obtain ⟨u, hu, rfl⟩ := step_next_inv ht
  obtain ⟨-, -, -, hrow, -⟩ := handlersLeaveControlState _ _ _ hu
  rw [finishStep_joyRow, hrow, State.atFetch, pollAndDispatch_joyRow]
  rcases henv : s.env with _ | ⟨acts, rest⟩
  · rwa [envTurn_nil henv]
  · rw [envTurn_cons henv]
    exact joyRowHigh_envActs acts h

/-! ### The toggle latch -/

theorem status_of_step_next {s t : State} (h : step s = .next t) : s.status = .running := by
  rcases hs : s.status with _ | ⟨table, key, addr⟩
  · rfl
  · cases (step_faulted hs).symm.trans h

/-- A step leaves the latch clear: an instruction that fills it raises no fault, so stage 7 empties it (R36, R108). -/
theorem step_keeps_toggle_clear {s t : State} (h : s.toggleArmed = false) (ht : step s = .next t) : t.toggleArmed = false := by
  obtain ⟨u, hu, rfl⟩ := step_next_inv ht
  obtain ⟨-, -, -, -, -, -, -, -, htoggle, hstatus⟩ := handlersLeaveControlState _ _ _ hu
  by_cases hu0 : u.toggleArmed = false
  · exact (finishStep_of_toggle_clear _ hu0).1
  · have hi := htoggle (by rwa [atFetch_toggleArmed, h])
    have hrun : u.status = .running := by
      rw [← status_of_step_next ht, ← atFetch_status s]
      by_contra hne
      rcases hstatus hne with ⟨b, hb⟩ | ⟨b, hb⟩ <;> rcases hi with e | e <;> cases e.symm.trans hb
    rw [finishStep_running _ hrun, applyToggle_toggleArmed]

/-! ### The statements -/

/-- Settles O49: memory and the joypad's column change by byte writes alone, F by `flags`, the row by key events, and stage 7 empties
the latch. -/
theorem stepKeepsTheInvariant : Obligations.StepKeepsTheInvariant := by
  intro s t hinv ht
  have hmem : memOk t.mem := writeInvariant_memOk.step ⟨hinv.memWf, hinv.memKeys⟩ ht
  exact {
    memWf := hmem.1
    memKeys := hmem.2
    flagLow := step_keeps_f_lowNibble hinv.flagLow ht
    toggleClear := step_keeps_toggle_clear hinv.toggleClear ht
    joyColLow := writeInvariant_joyColLow.step hinv.joyColLow ht
    joyRowHigh := step_keeps_joyRowHigh hinv.joyRowHigh ht }

/-- The state after reset meets the invariant, whatever the variant and `ime` (spec/70_reset_and_hazards.md R163 to R166). -/
theorem inv_resetFor (v : SystemVariant) (b : Bool) : (State.resetFor v b).Inv where
  memWf := rfl
  memKeys := nofun
  flagLow := congrArg (· &&& 0x0F) (loByte_mkWord (seed v) 0xB0)
  toggleClear := rfl
  joyColLow := (by decide : (0x00 : Byte) &&& 0x0F = 0)
  joyRowHigh := (by decide : (0x0F : Byte) &&& 0xF0 = 0)

/-- Settles O50: the reset state lists no cell and writes 0xB0 to F. -/
theorem resetMeetsTheInvariant : Obligations.ResetMeetsTheInvariant :=
  ⟨inv_resetFor, inv_resetFor Config.systemVariant Config.resetIME⟩

/-- Settles O52: no stage of a step writes the image. -/
theorem stepKeepsTheImage : Obligations.StepKeepsTheImage := by
  intro s t h
  obtain ⟨u, hu, rfl⟩ := step_next_inv h
  obtain ⟨-, -, -, -, hrom, hlen, -⟩ := handlersLeaveControlState _ _ _ hu
  exact ⟨by rw [finishStep_rom, hrom, atFetch_rom], by rw [finishStep_romLen, hlen, atFetch_romLen]⟩

/-- Settles O53: reset selects bank 1, and a bank select is the only byte write that sets the bank. -/
theorem bankStaysInRange : Obligations.BankStaysInRange :=
  ⟨fun _ _ => (by decide : 1 ≤ 1 ∧ 1 ≤ 31), fun _ _ h ht => writeInvariant_bankInRange.step h ht⟩

end Sys2Proof.Machine
end

section
/-! SUPPORT. The environment's actions (spec/60_exceptions.md R137, R151 to R158): what each writes and which reads it reaches. -/

namespace Sys2Proof.Machine

/-! ### IF -/

/-- Writing one byte to IF twice is writing it once. -/
theorem setIf_setIf {s : State} (v : Byte) (hw : Memory.wf s.mem = true) : (s.setIf v).setIf v = s.setIf v :=
  congrArg (fun m => ({ s with mem := m } : State)) (Memory.write_write (storageKey 0xFF0F) v hw)

/-- A signal sets its source's bit of IF (R137). -/
theorem ifReg_signalInterrupt {s : State} (src : Source) (hw : Memory.wf s.mem = true) :
    (s.signalInterrupt src).ifReg = s.ifReg ||| src.mask :=
  ifReg_setIf _ hw

/-- A signal of a source already signalled changes nothing (R137). -/
theorem signalInterrupt_idempotent {s : State} (src : Source) (hw : Memory.wf s.mem = true) :
    (s.signalInterrupt src).signalInterrupt src = s.signalInterrupt src := by
  have hbit : (s.signalInterrupt src).ifReg ||| src.mask = s.ifReg ||| src.mask := by
    rw [ifReg_signalInterrupt src hw, BitVec.or_assoc, BitVec.or_self]
  rw [State.signalInterrupt, hbit]
  exact setIf_setIf _ hw

theorem read8_signalInterrupt_ne (s : State) (src : Source) {b : Word} (h : b ≠ 0xFF0F) :
    (s.signalInterrupt src).read8 b = s.read8 b :=
  read8_store_ne s _ (storageKey_ne_if h)

/-! ### Key events -/

theorem solicited_iff (s : State) (key : Byte) : s.solicited key = true ↔ key &&& 0xF0 &&& s.joyCol ≠ 0 := by
  simp [State.solicited]

/-- A solicited press is `joypadPress`, a solicited release `joypadRelease` (R155). -/
theorem joypadSignal_of_solicited {s : State} {key : Byte} (h : key &&& 0xF0 &&& s.joyCol ≠ 0) (pressed : Bool) :
    s.joypadSignal key pressed = if pressed then s.joypadPress key else s.joypadRelease key :=
  if_pos ((solicited_iff s key).mpr h)

/-- An unsolicited event is dropped (R158). -/
theorem joypadSignal_of_unsolicited {s : State} {key : Byte} (h : key &&& 0xF0 &&& s.joyCol = 0) (pressed : Bool) :
    s.joypadSignal key pressed = s :=
  if_neg fun hs => (solicited_iff s key).mp hs h

/-- A joypad row reaches the read of the joypad's register alone. -/
theorem read8_setJoyRow (s : State) (v : Byte) {b : Word} (h : b ≠ 0xFF00) : ({ s with joyRow := v } : State).read8 b = s.read8 b :=
  read8_of_parts (fun _ => rfl) (fun _ => rfl) rfl (fun e => absurd e h) (fun _ => rfl)

/-- A key event reaches the reads of the joypad's register and IF alone (R156, R157). -/
theorem read8_joypadSignal_ne (s : State) (key : Byte) (pressed : Bool) {b : Word} (h : b ≠ 0xFF00) (hif : b ≠ 0xFF0F) :
    (s.joypadSignal key pressed).read8 b = s.read8 b := by
  unfold State.joypadSignal
  split
  · cases pressed
    · exact (read8_signalInterrupt_ne _ .joypad hif).trans (read8_setJoyRow s _ h)
    · exact read8_setJoyRow s _ h
  · rfl

/-- The two nibble masks of a byte are each other's complement. -/
theorem getLsbD_nibbleMasks : ∀ i < 8, (0x0F : Byte).getLsbD i = !(0xF0 : Byte).getLsbD i := by decide

/-- Clearing row bits that are clear leaves a row whose high nibble is clear (R156). -/
theorem and_not_and_lowNibble {row key : Byte} (hhigh : row &&& 0xF0 = 0) (hkey : row &&& key = 0) :
    row &&& ~~~key &&& 0x0F = row := by
  apply BitVec.eq_of_getLsbD_eq
  intro i hi
  have hhigh' : (row.getLsbD i && (0xF0 : Byte).getLsbD i) = false := by
    rw [← BitVec.getLsbD_and, hhigh]
    exact BitVec.getLsbD_zero
  have hkey' : (row.getLsbD i && key.getLsbD i) = false := by
    rw [← BitVec.getLsbD_and, hkey]
    exact BitVec.getLsbD_zero
  rw [BitVec.getLsbD_and, BitVec.getLsbD_and, BitVec.getLsbD_not, getLsbD_nibbleMasks i hi]
  cases hr : row.getLsbD i
  · rfl
  · rw [hr, Bool.true_and] at hhigh' hkey'
    rw [hkey', hhigh', decide_eq_true hi]
    rfl

/-! ### The window -/

/-- In the I/O window two addresses name two bytes, whatever region the other is of. -/
theorem storageKey_ne_of_window {a b : Word} (h : 0xFF00 ≤ a.toNat) (h' : a.toNat ≤ 0xFF7F) (hne : b ≠ a) :
    storageKey b ≠ storageKey a := by
  have hb := region_bounds b
  have hne' : b.toNat ≠ a.toNat := fun e => hne (BitVec.eq_of_toNat_eq e)
  have hkey : storageKey a = a.toNat := by simp only [storageKey, regionOf_io h h']
  rw [hkey]
  unfold storageKey
  cases hr : regionOf b <;> simp only [hr] at hb ⊢ <;> omega

theorem envWritable_iff (a : Word) : envWritable a = true ↔ 0xFF01 ≤ a.toNat ∧ a.toNat ≤ 0xFF7F := by
  simp [envWritable]

/-- A write in the window is a store (R151, D13). -/
theorem envAct_writeIo_eq_store {s : State} {a : Word} (v : Byte) (h : envWritable a = true) : s.envAct (.writeIo a v) = s.store a v :=
  if_pos h

/-- A write outside the window is no action (R151, D13). -/
theorem envAct_writeIo_outside {s : State} {a : Word} (v : Byte) (h : ¬ envWritable a = true) : s.envAct (.writeIo a v) = s :=
  if_neg h

/-- An action writes memory, the joypad's row and `halt_stop` alone. -/
theorem envAct_frame (s : State) (act : EnvAction) :
    s.envAct act = { s with mem := (s.envAct act).mem, joyRow := (s.envAct act).joyRow, haltStop := (s.envAct act).haltStop } := by
  cases act with
  | joypadSignal key pressed =>
    simp only [State.envAct, State.joypadSignal]
    split
    · cases pressed <;> rfl
    · rfl
  | writeIo a v =>
    simp only [State.envAct]
    split <;> rfl
  | signalInterrupt src => rfl
  | observe => rfl
  | setHaltStop => rfl

theorem envActs_frame (s : State) (acts : List EnvAction) :
    s.envActs acts =
      { s with mem := (s.envActs acts).mem, joyRow := (s.envActs acts).joyRow, haltStop := (s.envActs acts).haltStop } := by
  induction acts generalizing s with
  | nil => rfl
  | cons act acts ih =>
    have hact := congrArg (fun u : State => ({ u with
      mem := ((s.envAct act).envActs acts).mem, joyRow := ((s.envAct act).envActs acts).joyRow,
      haltStop := ((s.envAct act).envActs acts).haltStop } : State)) (envAct_frame s act)
    exact (ih (s.envAct act)).trans hact

/-- No action reaches a read outside the I/O window (R151, D13). -/
theorem read8_envAct_outside (s : State) (act : EnvAction) {b : Word} (h : b.toNat < 0xFF00 ∨ 0xFF7F < b.toNat) :
    (s.envAct act).read8 b = s.read8 b := by
  have outside {a : Word} (ha : 0xFF00 ≤ a.toNat) (ha' : a.toNat ≤ 0xFF7F) : b ≠ a := by
    rintro rfl
    omega
  have hjoy : b ≠ 0xFF00 := outside (by decide) (by decide)
  have hif : b ≠ 0xFF0F := outside (by decide) (by decide)
  cases act with
  | signalInterrupt src => exact read8_signalInterrupt_ne s src hif
  | joypadSignal key pressed => exact read8_joypadSignal_ne s key pressed hjoy hif
  | writeIo a v =>
    by_cases ha : envWritable a = true
    · obtain ⟨hlo, hhi⟩ := (envWritable_iff a).mp ha
      rw [envAct_writeIo_eq_store v ha]
      exact read8_store_ne s v (storageKey_ne_of_window (by omega) hhi (outside (by omega) hhi))
    · rw [envAct_writeIo_outside v ha]
  | observe => rfl
  | setHaltStop => rfl

theorem read8_envActs_outside (s : State) (acts : List EnvAction) {b : Word} (h : b.toNat < 0xFF00 ∨ 0xFF7F < b.toNat) :
    (s.envActs acts).read8 b = s.read8 b := by
  induction acts generalizing s with
  | nil => rfl
  | cons act acts ih => exact (ih _).trans (read8_envAct_outside s act h)

end Sys2Proof.Machine
end

section
/-! PROOF. The environment between two steps (spec/60_exceptions.md R137, R151 to R158). -/

namespace Sys2Proof.Machine

/-- Settles O54: a signal is one write of IF, with its source's bit set. -/
theorem signalInterruptSetsOneBit : Obligations.SignalInterruptSetsOneBit := by
  intro s hw
  have hbit (src : Source) := ifReg_signalInterrupt src hw
  exact ⟨⟨hbit .vblank, hbit .lcdStat, hbit .timer, hbit .serial, hbit .joypad⟩, fun src =>
    ⟨hbit src, signalInterrupt_idempotent src hw, fun _ hb => read8_signalInterrupt_ne s src hb, rfl⟩⟩

/-- Settles O55: a press clears row bits, and there is none to clear for a key already pressed. -/
theorem joypadPress : Obligations.JoypadPress := by
  refine ⟨fun s key h => joypadSignal_of_solicited h true, fun s key hhigh hkey => ?_⟩
  by_cases h : key &&& 0xF0 &&& s.joyCol = 0
  · exact joypadSignal_of_unsolicited h true
  · rw [joypadSignal_of_solicited h]
    exact congrArg (fun row => ({ s with joyRow := row } : State)) (and_not_and_lowNibble hhigh hkey)

/-- Settles O56: a release sets row bits, signals the joypad's source and clears `halt_stop`. -/
theorem joypadRelease : Obligations.JoypadRelease := by
  intro s key hw h
  have hread {b : Word} (hb : b ≠ 0xFF00) (hif : b ≠ 0xFF0F) := read8_joypadSignal_ne s key false hb hif
  simp only [joypadSignal_of_solicited h] at hread ⊢
  exact ⟨rfl, ifReg_signalInterrupt (s := { s with joyRow := (s.joyRow ||| (key &&& 0x0F)) &&& 0x0F }) .joypad hw, rfl,
    fun _ => hread, rfl⟩

/-- Settles O57: what is not solicited is dropped. -/
theorem unsolicitedEventIsDropped : Obligations.UnsolicitedEventIsDropped :=
  fun _ _ pressed h => joypadSignal_of_unsolicited h pressed

/-- A turn's actions taken before the step are the turn taken by the step (R147, R151). -/
theorem step_of_env_cons {s : State} {acts : List EnvAction} {rest : List (List EnvAction)} (hrun : s.status = .running)
    (henv : s.env = acts :: rest) : step s = step (({ s with env := [] :: rest } : State).envActs acts) := by
  have hrun' : (({ s with env := [] :: rest } : State).envActs acts).status = .running := by rw [envActs_status, hrun]
  have henv' : (({ s with env := [] :: rest } : State).envActs acts).env = [] :: rest := envActs_env ..
  rw [step_running hrun, step_running hrun', envTurn_cons henv, envTurn_cons henv', envActs_setEnv s acts ([] :: rest)]
  rfl

/-- An empty turn is as none. -/
theorem step_of_env_empty_turn {s : State} (hrun : s.status = .running) (henv : s.env = [[]]) :
    step s = step { s with env := [] } := by
  have hrun' : ({ s with env := [] } : State).status = .running := hrun
  rw [step_running hrun, step_running hrun', envTurn_cons henv, envTurn_nil rfl]
  rfl

/-- A step drops the turn at the head of `env`. -/
theorem step_env {s t : State} (h : step s = .next t) : t.env = s.env.tail := by
  obtain ⟨u, hu, rfl⟩ := step_next_inv h
  obtain ⟨-, -, -, -, -, -, henv, -⟩ := handlersLeaveControlState _ _ _ hu
  rw [finishStep_env, henv, atFetch_env]

/-- Settles O58: each action writes one cell of the window, the row or `halt_stop`, and a step takes one turn. -/
theorem environmentStaysInItsWindow : Obligations.EnvironmentStaysInItsWindow := by
  refine ⟨fun s a v h h' hw => ?_, fun s a v h => ?_, fun _ => ⟨rfl, rfl, fun _ => rfl, fun _ _ => rfl⟩,
    fun _ => ⟨rfl, fun _ _ => rfl⟩, fun _ _ _ => step_of_env_cons, fun _ => step_of_env_empty_turn, fun _ _ => step_env,
    fun s acts => ⟨envActs_frame s acts, fun _ => read8_envActs_outside s acts⟩⟩
  · have ha : envWritable a = true := (envWritable_iff a).mpr ⟨h, h'⟩
    rw [envAct_writeIo_eq_store v ha]
    refine ⟨?_, fun b hb => read8_store_ne s v (storageKey_ne_of_window (by omega) h' hb), rfl⟩
    rw [store_eq_write8_of_envWritable s v ha]
    exact read8_write8_of_inStorage v hw (.inr ⟨h, by omega⟩)
  · exact envAct_writeIo_outside v fun ha => by
      have := (envWritable_iff a).mp ha
      omega

end Sys2Proof.Machine
end

section
/-! PROOF. The state after reset (spec/70_reset_and_hazards.md R163 to R166). -/

namespace Sys2Proof.Machine

theorem resetFor_a (v : SystemVariant) (b : Bool) : (State.resetFor v b).reg8 .a = seed v := hiByte_mkWord (seed v) 0xB0

theorem resetFor_f (v : SystemVariant) (b : Bool) : (State.resetFor v b).f = 0xB0 := loByte_mkWord (seed v) 0xB0

/-- Settles O59: A is the variant's seed and F is 0xB0. -/
theorem resetRegisters : Obligations.ResetRegisters := by
  refine ⟨fun b => ⟨resetFor_a .dmg b, resetFor_a .sgb b, resetFor_a .cgb b, resetFor_a .mgb b⟩, fun v b => ?_, rfl⟩
  simp only [State.flagZ, State.flagN, State.flagH, State.flagC, resetFor_f]
  exact ⟨resetFor_f v b, rfl, rfl, rfl, rfl, rfl, by decide⟩

/-- Settles O60: no storage byte is listed, and an unlisted byte reads 0x00. -/
theorem resetOfTheRest : Obligations.ResetOfTheRest :=
  ⟨fun _ ha => read8_plain State.reset (isPlain_of_inStorage ha), rfl, rfl, rfl, rfl, rfl, rfl, rfl, rfl, rfl, rfl⟩

end Sys2Proof.Machine
end
